-- ==== Sys2Proof/Word.lean ====
section
/-! DEFINITION. The word, byte and slot-number types of PBVE (00_scope R7, R8; 10_state R20). -/

namespace Sys2Proof

/-- A 32-bit pattern: a storage word, an argument, a result, a register (00_scope R7, R8). -/
abbrev Word := BitVec 32

/-- One byte of the text buffer (10_state R39). -/
abbrev Byte := BitVec 8

/-- A 4-bit slot field of the `CMD` word, read as an unsigned number 0 to 15 (30_encoding R71, R73). -/
abbrev SlotNo := Fin 16

end Sys2Proof
end

