-- ==== Sys2Proof/Syntax.lean ====
section
/-! DEFINITION. The 32 commands of PBVE-1 (30_encoding R75), one constructor per row of the opcode table, each with
the slot fields its format uses (R72). Numeric operands stand in `ARG0` and `ARG1` (R73), not in the command word. -/

namespace Sys2Proof

/-- A command of PBVE-1, its slot operands in the order `D`, `A`, `B` restricted to the fields its format uses
(30_encoding R72, R75, R80). -/
inductive Instr where
  /-- `NEW vD, n` (40 R102) -/
  | new (d : SlotNo)
  /-- `I2W vA, idx` (40 R104) -/
  | i2w (a : SlotNo)
  /-- `GET vA, idx` (40 R105) -/
  | get (a : SlotNo)
  /-- `FFS vA, fromWord` (41 R126) -/
  | ffs (a : SlotNo)
  /-- `FFZ vA, fromWord` (41 R127) -/
  | ffz (a : SlotNo)
  /-- `FLS vA, fromWord` (41 R128) -/
  | fls (a : SlotNo)
  /-- `FLZ vA, fromWord` (41 R129) -/
  | flz (a : SlotNo)
  /-- `NEXTSET vA, idx` (41 R130) -/
  | nextset (a : SlotNo)
  /-- `NEXTUNSET vA, idx` (41 R131) -/
  | nextunset (a : SlotNo)
  /-- `PREVSET vA, idx` (41 R132) -/
  | prevset (a : SlotNo)
  /-- `PREVUNSET vA, idx` (41 R133) -/
  | prevunset (a : SlotNo)
  /-- `SET vA, idx` (42 R152) -/
  | set (a : SlotNo)
  /-- `UNSET vA, idx` (42 R153) -/
  | unset (a : SlotNo)
  /-- `TOGGLE vA, idx` (42 R154) -/
  | toggle (a : SlotNo)
  /-- `SETRANGE vA, from, to` (42 R158) -/
  | setrange (a : SlotNo)
  /-- `UNSETRANGE vA, from, to` (42 R159) -/
  | unsetrange (a : SlotNo)
  /-- `TOGGLERANGE vA, from, to` (42 R160) -/
  | togglerange (a : SlotNo)
  /-- `CLEAR vA` (42 R162) -/
  | clear (a : SlotNo)
  /-- `CLONE vD, vA` (42 R163) -/
  | clone (d a : SlotNo)
  /-- `AND vD, vA, vB` (43 R173) -/
  | and (d a b : SlotNo)
  /-- `OR vD, vA, vB` (43 R174) -/
  | or (d a b : SlotNo)
  /-- `XOR vD, vA, vB` (43 R175) -/
  | xor (d a b : SlotNo)
  /-- `ANDI vD, vA, idx` (43 R178) -/
  | andi (d a : SlotNo)
  /-- `ORI vD, vA, idx` (43 R179) -/
  | ori (d a : SlotNo)
  /-- `XORI vD, vA, idx` (43 R180) -/
  | xori (d a : SlotNo)
  /-- `CARD vA` (43 R184) -/
  | card (a : SlotNo)
  /-- `ISEMPTY vA` (43 R185) -/
  | isempty (a : SlotNo)
  /-- `ISEQUAL vA, vB` (43 R186) -/
  | isequal (a b : SlotNo)
  /-- `ISSUBSET vA, vB` (43 R187) -/
  | issubset (a b : SlotNo)
  /-- `DEHYD vA` (44 R210) -/
  | dehyd (a : SlotNo)
  /-- `REHYD vD` (44 R220) -/
  | rehyd (d : SlotNo)
  /-- `TOSTR vA` (44 R204) -/
  | tostr (a : SlotNo)
  deriving DecidableEq, Repr

/-- The five formats of 30_encoding R72. -/
inductive Format where
  | fD
  | fA
  | fAB
  | fDA
  | fDAB
  deriving DecidableEq, Repr

/-- The slot fields a command carries; `none` where its format does not use the field (30_encoding R71, R72). -/
structure SlotFields where
  d : Option SlotNo := none
  a : Option SlotNo := none
  b : Option SlotNo := none
  deriving DecidableEq, Repr

/-- The slot fields of each command (30_encoding R72, R75). -/
def Instr.fields : Instr → SlotFields
  | .new d => { d := some d }
  | .i2w a => { a := some a }
  | .get a => { a := some a }
  | .ffs a => { a := some a }
  | .ffz a => { a := some a }
  | .fls a => { a := some a }
  | .flz a => { a := some a }
  | .nextset a => { a := some a }
  | .nextunset a => { a := some a }
  | .prevset a => { a := some a }
  | .prevunset a => { a := some a }
  | .set a => { a := some a }
  | .unset a => { a := some a }
  | .toggle a => { a := some a }
  | .setrange a => { a := some a }
  | .unsetrange a => { a := some a }
  | .togglerange a => { a := some a }
  | .clear a => { a := some a }
  | .clone d a => { d := some d, a := some a }
  | .and d a b => { d := some d, a := some a, b := some b }
  | .or d a b => { d := some d, a := some a, b := some b }
  | .xor d a b => { d := some d, a := some a, b := some b }
  | .andi d a => { d := some d, a := some a }
  | .ori d a => { d := some d, a := some a }
  | .xori d a => { d := some d, a := some a }
  | .card a => { a := some a }
  | .isempty a => { a := some a }
  | .isequal a b => { a := some a, b := some b }
  | .issubset a b => { a := some a, b := some b }
  | .dehyd a => { a := some a }
  | .rehyd d => { d := some d }
  | .tostr a => { a := some a }

end Sys2Proof
end

