-- ==== Sys2Proof/Decode.lean ====
section
/-! DEFINITION. The `CMD` word: the opcode map, the decoder (30_encoding R71, R72, R74 step 1, R75) and the
encoder (R80). Total on every 32-bit value; an illegal value is rejected by name. -/

namespace Sys2Proof

/-- Why the decoder rejects a word (30_encoding R76 (a), (b) and (c)). Each becomes `IllegalCommand`. -/
inductive DecodeError where
  /-- `bits[7:0]` is none of the 32 opcodes (R76 (a)). -/
  | unknownOpcode
  /-- A reserved bit, or a slot field the format does not use, is not 0 (R76 (b), (c)). -/
  | mustBeZero
  deriving DecidableEq, Repr

/-- `OPC`, bits 7:0 (30_encoding R71). -/
def opcodeField (x : Word) : Nat := (x.extractLsb' 0 8).toNat

/-- `D`, bits 11:8 (30_encoding R71). -/
def fieldD (x : Word) : SlotNo := (x.extractLsb' 8 4).toFin

/-- `A`, bits 15:12 (30_encoding R71). -/
def fieldA (x : Word) : SlotNo := (x.extractLsb' 12 4).toFin

/-- `B`, bits 19:16 (30_encoding R71). -/
def fieldB (x : Word) : SlotNo := (x.extractLsb' 16 4).toFin

/-- The `mask` column of 30_encoding R72: the bits that must equal `match`. -/
def formatMask : Format → Word
  | .fD => 0xFFFFF0FF
  | .fA => 0xFFFF0FFF
  | .fAB => 0xFFF00FFF
  | .fDA => 0xFFFF00FF
  | .fDAB => 0xFFF000FF

/-- One row of the opcode map (30_encoding R75): its `match` is the opcode number alone (R72); `build` makes the
command from the slot fields `D`, `A`, `B`. -/
structure OpcodeRow where
  opcode : Nat
  format : Format
  build : SlotNo → SlotNo → SlotNo → Instr

/-- The opcode map of 30_encoding R75, in its order. -/
def opcodeMap : List OpcodeRow :=
  [⟨0x10, .fD, fun d _ _ => .new d⟩,
   ⟨0x11, .fA, fun _ a _ => .i2w a⟩,
   ⟨0x12, .fA, fun _ a _ => .get a⟩,
   ⟨0x20, .fA, fun _ a _ => .ffs a⟩,
   ⟨0x21, .fA, fun _ a _ => .ffz a⟩,
   ⟨0x22, .fA, fun _ a _ => .fls a⟩,
   ⟨0x23, .fA, fun _ a _ => .flz a⟩,
   ⟨0x24, .fA, fun _ a _ => .nextset a⟩,
   ⟨0x25, .fA, fun _ a _ => .nextunset a⟩,
   ⟨0x26, .fA, fun _ a _ => .prevset a⟩,
   ⟨0x27, .fA, fun _ a _ => .prevunset a⟩,
   ⟨0x30, .fA, fun _ a _ => .set a⟩,
   ⟨0x31, .fA, fun _ a _ => .unset a⟩,
   ⟨0x32, .fA, fun _ a _ => .toggle a⟩,
   ⟨0x34, .fA, fun _ a _ => .setrange a⟩,
   ⟨0x35, .fA, fun _ a _ => .unsetrange a⟩,
   ⟨0x36, .fA, fun _ a _ => .togglerange a⟩,
   ⟨0x38, .fA, fun _ a _ => .clear a⟩,
   ⟨0x39, .fDA, fun d a _ => .clone d a⟩,
   ⟨0x40, .fDAB, fun d a b => .and d a b⟩,
   ⟨0x41, .fDAB, fun d a b => .or d a b⟩,
   ⟨0x42, .fDAB, fun d a b => .xor d a b⟩,
   ⟨0x44, .fDA, fun d a _ => .andi d a⟩,
   ⟨0x45, .fDA, fun d a _ => .ori d a⟩,
   ⟨0x46, .fDA, fun d a _ => .xori d a⟩,
   ⟨0x48, .fA, fun _ a _ => .card a⟩,
   ⟨0x49, .fA, fun _ a _ => .isempty a⟩,
   ⟨0x4A, .fAB, fun _ a b => .isequal a b⟩,
   ⟨0x4B, .fAB, fun _ a b => .issubset a b⟩,
   ⟨0x50, .fA, fun _ a _ => .dehyd a⟩,
   ⟨0x51, .fD, fun d _ _ => .rehyd d⟩,
   ⟨0x52, .fA, fun _ a _ => .tostr a⟩]

/-- The first two checks of 30_encoding R74 step 1, in its order: the row of the opcode, then its must-be-zero bits.
The slot-number check depends on `NSLOTS` and stands in the shared command operations of `Machine/Ops.lean`. -/
def decode (x : Word) : Except DecodeError Instr :=
  match opcodeMap.find? (fun r => r.opcode == opcodeField x) with
  | none => .error .unknownOpcode
  | some r =>
    if x &&& formatMask r.format = BitVec.ofNat 32 r.opcode then
      .ok (r.build (fieldD x) (fieldA x) (fieldB x))
    else .error .mustBeZero

/-- The opcode number of a command (30_encoding R75). -/
def opcodeOf : Instr → Nat
  | .new .. => 0x10
  | .i2w .. => 0x11
  | .get .. => 0x12
  | .ffs .. => 0x20
  | .ffz .. => 0x21
  | .fls .. => 0x22
  | .flz .. => 0x23
  | .nextset .. => 0x24
  | .nextunset .. => 0x25
  | .prevset .. => 0x26
  | .prevunset .. => 0x27
  | .set .. => 0x30
  | .unset .. => 0x31
  | .toggle .. => 0x32
  | .setrange .. => 0x34
  | .unsetrange .. => 0x35
  | .togglerange .. => 0x36
  | .clear .. => 0x38
  | .clone .. => 0x39
  | .and .. => 0x40
  | .or .. => 0x41
  | .xor .. => 0x42
  | .andi .. => 0x44
  | .ori .. => 0x45
  | .xori .. => 0x46
  | .card .. => 0x48
  | .isempty .. => 0x49
  | .isequal .. => 0x4A
  | .issubset .. => 0x4B
  | .dehyd .. => 0x50
  | .rehyd .. => 0x51
  | .tostr .. => 0x52

/-- The format of a command (30_encoding R75). -/
def formatOf : Instr → Format
  | .new .. => .fD
  | .i2w .. => .fA
  | .get .. => .fA
  | .ffs .. => .fA
  | .ffz .. => .fA
  | .fls .. => .fA
  | .flz .. => .fA
  | .nextset .. => .fA
  | .nextunset .. => .fA
  | .prevset .. => .fA
  | .prevunset .. => .fA
  | .set .. => .fA
  | .unset .. => .fA
  | .toggle .. => .fA
  | .setrange .. => .fA
  | .unsetrange .. => .fA
  | .togglerange .. => .fA
  | .clear .. => .fA
  | .clone .. => .fDA
  | .and .. => .fDAB
  | .or .. => .fDAB
  | .xor .. => .fDAB
  | .andi .. => .fDA
  | .ori .. => .fDA
  | .xori .. => .fDA
  | .card .. => .fA
  | .isempty .. => .fA
  | .isequal .. => .fAB
  | .issubset .. => .fAB
  | .dehyd .. => .fA
  | .rehyd .. => .fD
  | .tostr .. => .fA

/-- A slot field's number, 0 where the format does not use the field (30_encoding R72). -/
def fieldNumber : Option SlotNo → Nat
  | none => 0
  | some f => f.val

/-- The `CMD` word of a command: `OPC | D<<8 | A<<12 | B<<16` (30_encoding R80). -/
def encode (i : Instr) : Word :=
  BitVec.ofNat 32 (opcodeOf i) ||| BitVec.ofNat 32 (fieldNumber i.fields.d) <<< 8 |||
    BitVec.ofNat 32 (fieldNumber i.fields.a) <<< 12 ||| BitVec.ofNat 32 (fieldNumber i.fields.b) <<< 16

/-- The command the decoder reads from the word `w` of an opcode-table row. A command word is one 32-bit value
(30_encoding R70), written to `CMD` whole: there is no byte order to lay it out in (20_memory R54). -/
def decodeTableWord (nbits w : Nat) : Option Instr :=
  if w < 2 ^ nbits ∧ w < 2 ^ 32 then (decode (BitVec.ofNat 32 w)).toOption else none

end Sys2Proof
end

