-- ==== Sys2Proof/Config.lean ====
section
/-! DEFINITION. What an implementation of PBVE fixes (00_scope R6, R7), the De Bruijn ROM and its constant
(41_bitscan R121), and the one free value (93_implementation_defined U6). -/

namespace Sys2Proof.Config

/-- The implementation parameters of 00_scope R6. The state carries them (assumption 1), so that one model
covers every instance. -/
structure Params where
  /-- `NSLOTS`, number of vector slots. -/
  nslots : Nat
  /-- `MAXWORDS`, words per slot. -/
  maxwords : Nat
  /-- `TEXTBYTES`, size of the text buffer in bytes. -/
  textbytes : Nat
  deriving DecidableEq, Repr

/-- The default parameters of 00_scope R6. -/
def defaultParams : Params := ⟨8, 128, 4096⟩

/-- `BPW`, usable bits per word (00_scope R6, R7): fixed. -/
abbrev bpw : Nat := 31

/-- `FULL`, the word with all usable bits set (00_scope R6). -/
abbrev full : Word := 0x7FFFFFFF

/-- `MAXCAP = 31 * MAXWORDS` (00_scope R6). -/
def Params.maxcap (p : Params) : Nat := bpw * p.maxwords

/-- The constraints of 00_scope R6 on the three parameters. -/
abbrev Params.Legal (p : Params) : Prop :=
  (1 ≤ p.nslots ∧ p.nslots ≤ 16) ∧ (1 ≤ p.maxwords ∧ p.maxwords ≤ 69273666) ∧
    max (31 * p.maxwords) (11 * p.maxwords + 21) ≤ p.textbytes ∧ p.textbytes < 2 ^ 32

/-- `DBC`, the De Bruijn constant of 41_bitscan R121 (general knowledge G1). -/
def deBruijnConstant : Word := 0x077CB531

/-- `DB[0..31]`, the De Bruijn ROM of 41_bitscan R121 (10_state R40: read-only, not state). -/
def deBruijnTable : List Nat :=
  [ 0,  1, 28,  2, 29, 14, 24,  3,
   30, 22, 20, 15, 25, 17,  4,  8,
   31, 27, 13, 23, 21, 19, 16,  7,
   26, 12, 18,  6, 11,  5, 10,  9]

/-- FREE VALUE (93_implementation_defined U6, assumption 3): what a text byte holds that nothing has written since
reset. First argument: how many resets have happened. Second: the byte's index. Nothing constrains it. -/
opaque unwrittenTextByte : Nat → Nat → Byte

end Sys2Proof.Config
end

