-- ==== Sys2Proof/Machine/State.lean ====
section
/-! DEFINITION. The state of PBVE (10_state), the inputs that act on it (20_memory R52; 70_reset R260, R274), the
reasons a step can stop, and reset (10_state R42). -/

namespace Sys2Proof.Machine

/-- The six exceptions of 60_exceptions R230 (93 U11: exactly six). Each is reported in `STATUS` and is a next
state, never a stop. -/
inductive Exc where
  /-- Code 1: an index operand is `< 0` or `> maxBit` (R233). -/
  | indexOutOfRange
  /-- Code 2: the two vector operands have different word counts (R234). -/
  | capacityMismatch
  /-- Code 3: the text given to `REHYD` is not a well-formed dehydrated vector (R235). -/
  | malformedEncoding
  /-- Code 4: the value written to `CMD` is not a legal encoding (R236). -/
  | illegalCommand
  /-- Code 5: a source slot holds no vector (R238). -/
  | slotInvalid
  /-- Code 6: a capacity is negative or greater than `MAXCAP` (R237). -/
  | badCapacity
  deriving DecidableEq, Repr

/-- The content of one valid slot (10_state R20, R24): `maxBit`, and the `nwords` words in index order. The word
count `nwords` is the length of `words` (93 U4; assumption 2). -/
structure PackedVector where
  maxBit : Word
  words : List Word
  deriving DecidableEq, Repr

/-- `STATUS` as its two fields (10_state R35; 93 U11). `code = none` is `CODE = 0`. -/
structure Status where
  code : Option Exc
  sticky : Bool
  deriving DecidableEq, Repr

/-- The interface registers, by name (10_state R32 to R37). -/
inductive Reg where
  | cmd
  | arg0
  | arg1
  | status
  | res
  | textlen
  | valid
  | maxBitOf (s : SlotNo)
  | nwordsOf (s : SlotNo)
  | nslotsR
  | maxwordsR
  | textbytesR
  deriving DecidableEq, Repr

/-- The four host transactions of 20_memory R52. -/
inductive Txn where
  | regWrite (r : Reg) (x : Word)
  | regRead (r : Reg)
  | textWrite (i : Nat) (b : Byte)
  | textRead (i : Nat)
  deriving DecidableEq, Repr

/-- The widths of a bus access (20_memory R55). -/
inductive BusWidth where
  | byte
  | half
  | word
  deriving DecidableEq, Repr

/-- A bus access under the default binding (20_memory R54, R55, R58): byte offset from the block's base. A narrow write
carries its data in the low bits of the word `x` (DESIGN CHOICE, assumption 23). -/
inductive BusAccess where
  | read (width : BusWidth) (offset : Nat)
  | write (width : BusWidth) (offset : Nat) (x : Word)
  deriving DecidableEq, Repr

/-- What can act on the block from outside: a host transaction (20_memory R52), an access of the default bus binding
(R58), the external reset (70_reset R260). -/
inductive Input where
  | txn (t : Txn)
  | bus (a : BusAccess)
  | reset
  deriving DecidableEq, Repr

/-- One observed value (70_reset R274): what a `RegRead` returned, or what a `TextRead` returned. A bus read observes
what the transactions it is made of return (20_memory R55; assumption 6). -/
inductive Reading where
  | word (x : Word)
  | byte (b : Byte)
  deriving DecidableEq, Repr

/-- The state of one PBVE instance. -/
structure State where
  /-- The instance's parameters (00_scope R6; assumption 1). Constant. -/
  params : Config.Params
  /-- The slot file (10_state R20): `none` is `valid = 0` (93 U5). A slot field has four bits, so there are at most 16
  slots; the entries at `NSLOTS` and above stay `none` (assumption 2). -/
  slots : Vector (Option PackedVector) 16
  /-- `ARG0` (10_state R32). -/
  arg0 : Word
  /-- `ARG1` (10_state R32). -/
  arg1 : Word
  /-- `CMD` (10_state R33). -/
  cmd : Word
  /-- `STATUS` (10_state R35). -/
  status : Status
  /-- `RES` (10_state R36). -/
  res : Word
  /-- `TEXTLEN` (10_state R34). -/
  textlen : Word
  /-- The text buffer (10_state R39): the bytes written since reset, addresses strictly rising. -/
  text : List Host.Cell
  /-- How many resets have happened: the free value of an unwritten text byte is a function of it (assumption 3). -/
  textEpoch : Nat
  /-- The host's inputs still to come (10_state R30; assumption 4). -/
  pending : List Input
  /-- The values read so far, oldest first (70_reset R274; assumption 6). -/
  observed : List Reading
  deriving DecidableEq, Repr

/-- The reasons the machine stops. It has none: the spec names no event that stops the engine, every failure being
an exception reported in `STATUS` (60_exceptions R230, R232, R246; assumption 19). -/
inductive Fault where
  deriving DecidableEq, Repr

/-- The reasons the model gives an instruction no meaning. -/
inductive Refusal where
  /-- Raised by an arm of `exec` whose instruction has no meaning yet; safe, since no claim can rest on it. No arm
  raises it. -/
  | notModelled (mnemonic : String)
  deriving DecidableEq, Repr

/-- The state after reset of an instance with parameters `p` (10_state R42; 70_reset R260). -/
def State.resetOf (p : Config.Params) : State where
  params := p
  slots := Vector.replicate 16 none
  arg0 := 0
  arg1 := 0
  cmd := 0
  status := ⟨none, false⟩
  res := 0
  textlen := 0
  text := []
  textEpoch := 0
  pending := []
  observed := []

/-- The machine right after reset, at the default parameters (00_scope R6, 10_state R42; assumption 1). -/
def State.reset : State := State.resetOf Config.defaultParams

end Sys2Proof.Machine
end

