-- ==== Sys2Proof/Machine/Operands.lean ====
section
/-! DEFINITION. Reading operands (30_encoding R73) and the arithmetic helpers of 00_scope R8, R10 and R11. -/

namespace Sys2Proof.Machine

/-- `s32(x)`: the two's-complement reading (00_scope R8). -/
def s32 (x : Word) : Int := x.toInt

/-- `u32(n)`: the 32-bit pattern of `n` modulo `2^32` (00_scope R8). -/
def u32 (n : Int) : Word := BitVec.ofInt 32 n

/-- `ceil31(n) = (n + 30) div 31` (00_scope R10). -/
def ceil31 (n : Nat) : Nat := (n + 30) / 31

/-- `mask(len, start)`: `len` ones starting at bit `start` (00_scope R11). -/
def mask (len start : Nat) : Word := BitVec.ofNat 32 ((2 ^ len - 1) * 2 ^ start)

/-- `onehot(b) = 2^b` (00_scope R11). -/
def onehot (b : Nat) : Word := BitVec.ofNat 32 (2 ^ b)

/-- The signed operand in `ARG0`: `n`, `idx`, `from` or `fromWord` (30_encoding R73). -/
def State.operand0 (s : State) : Int := s32 s.arg0

/-- The signed operand in `ARG1`: `to` (30_encoding R73). -/
def State.operand1 (s : State) : Int := s32 s.arg1

end Sys2Proof.Machine
end

