-- ==== Sys2Proof/Machine/DeBruijn.lean ====
section
/-! DEFINITION. The word unit: `lsb`, `msb` and `popcount` by their normative definitions, which the commands use
(41_bitscan R120, 43_algebra R183), and beside them the mechanisms the hardware prescribes for them: the De Bruijn
look-up (R122, R123) and the parallel sum (R183). Assumption 11. -/

namespace Sys2Proof.Machine

/-- `lsb(x)`: the least set bit position of a non-zero word (41_bitscan R120). No rule applies it to 0. -/
def lsb (x : Word) : Nat := ((List.range 32).find? fun i => x.getLsbD i).getD 0

/-- `msb(x)`: the greatest set bit position of a non-zero word (41_bitscan R120). No rule applies it to 0. -/
def msb (x : Word) : Nat := ((List.range 32).reverse.find? fun i => x.getLsbD i).getD 0

/-- `popcount(x)`: the number of set bits (43_algebra R183). -/
def popcount (x : Word) : Nat := (List.range 32).countP fun i => x.getLsbD i

/-- The De Bruijn look-up of a word with one bit set: `DB[(y *32 DBC) >> 27]` (41_bitscan R121, R122). -/
def deBruijnPosition (y : Word) : Nat :=
  Config.deBruijnTable.getD ((y * Config.deBruijnConstant) >>> 27).toNat 0

/-- The mechanism of `lsb` (41_bitscan R122): isolate the lowest set bit, look it up. -/
def lsbDeBruijn (x : Word) : Nat := deBruijnPosition (x &&& -x)

/-- The OR-fold of 41_bitscan R123: every bit below the top set bit becomes 1. -/
def orFold (x : Word) : Word :=
  let w1 := x ||| (x >>> 1)
  let w2 := w1 ||| (w1 >>> 2)
  let w3 := w2 ||| (w2 >>> 4)
  let w4 := w3 ||| (w3 >>> 8)
  w4 ||| (w4 >>> 16)

/-- The mechanism of `msb` (41_bitscan R123): fold down, isolate the top bit, look it up. -/
def msbDeBruijn (x : Word) : Nat := deBruijnPosition ((orFold x >>> 1) + 1)

/-- The mechanism of `popcount` (43_algebra R183): masked pairwise sums and a multiply-and-shift. -/
def popcountParallel (x : Word) : Word :=
  let x1 := x - ((x >>> 1) &&& 0x55555555)
  let x2 := (x1 &&& 0x33333333) + ((x1 >>> 2) &&& 0x33333333)
  let x3 := (x2 + (x2 >>> 4)) &&& 0x0F0F0F0F
  (x3 * 0x01010101) >>> 24

end Sys2Proof.Machine
end

