-- ==== Sys2Proof/Machine/Flags.lean ====
section
/-! DEFINITION. `STATUS` and the values of `RES` (10_state R31, R35, R36; 60_exceptions R230). PBVE has no condition
codes. -/

namespace Sys2Proof.Machine

/-- The exception codes of 60_exceptions R230. -/
def Exc.code : Exc → Nat
  | .indexOutOfRange => 1
  | .capacityMismatch => 2
  | .malformedEncoding => 3
  | .illegalCommand => 4
  | .slotInvalid => 5
  | .badCapacity => 6

/-- What the host reads in `STATUS`: `CODE` in bits 3:0, `STICKY` in bit 8, every other bit 0 (10_state R35). -/
def Status.toWord (t : Status) : Word :=
  BitVec.ofNat 32 ((t.code.map Exc.code).getD 0 + (if t.sticky then 2 ^ 8 else 0))

/-- A host write of `x` to `STATUS`: bit 8 set clears `STICKY`; every other bit is ignored (10_state R35). -/
def Status.hostWrite (t : Status) (x : Word) : Status :=
  if x.getLsbD 8 then { t with sticky := false } else t

/-- `STATUS` after a command that completes (10_state R35). -/
def Status.completed (t : Status) : Status := { t with code := none }

/-- `STATUS` after a command that raises `e` (10_state R35, 60_exceptions R232). -/
def Status.raised (_ : Status) (e : Exc) : Status := { code := some e, sticky := true }

/-- The result "success" (10_state R36). -/
def success : Int := 1

/-- A boolean result: 1 for true, 0 for false (10_state R36). -/
def truth (c : Bool) : Int := if c then 1 else 0

/-- A scan's result: a global index, or `-1` for "no qualifying bit" (41_bitscan R124, 10_state R36). -/
def scanResult : Option Nat → Int
  | some r => r
  | none => -1

end Sys2Proof.Machine
end

