-- ==== Sys2Proof/Machine/Ops.lean ====
section
/-! DEFINITION. The named operations over slots, the text buffer and the registers; completing a command and taking
an exception (30_encoding R74, 60_exceptions R232); the frame that every command runs in (R74), one per format. -/

namespace Sys2Proof.Machine

/-! ### The text buffer (10_state R39) -/

/-- The cells of the byte string `bs` at `a`, `a+1`, ... -/
def cellsAt : Nat → List Byte → List Host.Cell
  | _, [] => []
  | a, b :: bs => (a, b) :: cellsAt (a + 1) bs

/-- Addresses strictly rising, none below `a`. -/
def risingFrom : Nat → List Host.Cell → Bool
  | _, [] => true
  | a, c :: m => decide (a ≤ c.1) && risingFrom (c.1 + 1) m

/-- The canonical form of a memory: addresses strictly rising, hence one cell an address. An unlisted address reads
as no value, which no cell holds. -/
def memoryWf (m : List Host.Cell) : Bool := risingFrom 0 m

/-- The byte at `a`; `none` where nothing is listed. -/
def memoryRead (m : List Host.Cell) (a : Nat) : Option Byte := m.lookup a

/-- Write the bytes `bs` at `a`, `a+1`, ...; every other address is left alone (00_scope R9 `MemWrite`). -/
def memoryWrite (m : List Host.Cell) (a : Nat) (bs : List Byte) : List Host.Cell :=
  m.filter (fun c => decide (c.1 < a)) ++ cellsAt a bs ++ m.filter (fun c => decide (a + bs.length ≤ c.1))

/-- `text[i]`, for `i < TEXTBYTES`: the byte last written, or the free value of a byte nothing has written since
reset (10_state R39, 93 U6; assumption 3). -/
def State.textByte (s : State) (i : Nat) : Byte :=
  (memoryRead s.text i).getD (Config.unwrittenTextByte s.textEpoch i)

/-- `MemRead(0, n)` (00_scope R9). -/
def State.textRead (s : State) (n : Nat) : List Byte := (List.range n).map s.textByte

/-- `MemWrite(a, n, bs)`, kept inside the buffer (00_scope R9; the parameter constraint of R6 keeps every text the
engine writes inside it, 44_codec R202; assumption 14). -/
def State.textWrite (s : State) (a : Nat) (bs : List Byte) : State :=
  { s with text := memoryWrite s.text a (bs.take (s.params.textbytes - a)) }

/-- A command's text output: write the text at 0, set `TEXTLEN`, leave every later byte (44_codec R202). -/
def State.putText (s : State) (t : List Byte) : State :=
  { s.textWrite 0 t with textlen := BitVec.ofNat 32 t.length }

/-! ### The slot file (10_state R20 to R26) -/

/-- The vector in slot `f`; `none` when the slot is invalid. -/
def State.slot (s : State) (f : SlotNo) : Option PackedVector := s.slots[f]

/-- Make slot `f` hold the vector `v`; no other slot changes (00_scope R9, 10_state R26). -/
def State.putVector (s : State) (f : SlotNo) (v : PackedVector) : State :=
  { s with slots := s.slots.set f.val (some v) f.isLt }

/-- Slot number `f` exists in this instance (30_encoding R73, R76 (d)). -/
def State.hasSlot (s : State) (f : SlotNo) : Bool := decide (f.val < s.params.nslots)

/-- `nwords`, the vector's word count (10_state R20, R22). -/
def PackedVector.nwords (v : PackedVector) : Nat := v.words.length

/-- `maxBit` as a number. Its signed and unsigned readings agree, `maxBit` being below `2^31` (10_state R20, R22;
assumption 10). -/
def PackedVector.mb (v : PackedVector) : Nat := v.maxBit.toNat

/-- Word `i` of the vector (00_scope R9), for `i < nwords`; no rule reads past it (10_state R23; assumption 17). -/
def PackedVector.word (v : PackedVector) (i : Nat) : Word := v.words.getD i 0

/-- Bit `j` of the vector: bit `j mod 31` of word `j div 31` (10_state R24). -/
def PackedVector.bit (v : PackedVector) (j : Nat) : Bool := (v.word (j / 31)).getLsbD (j % 31)

/-- `lastLocal`: the position of bit `maxBit` in the last word (00_scope R11). -/
def PackedVector.lastLocal (v : PackedVector) : Nat := v.mb % 31

/-- `padmask`: the padding bits of the last word (00_scope R11). -/
def PackedVector.padmask (v : PackedVector) : Word :=
  if v.lastLocal = 30 then 0 else mask (30 - v.lastLocal) (v.lastLocal + 1)

/-- `canonical`: bit 31 of every word and every padding bit are 0 (00_scope R11). -/
def PackedVector.canonical (v : PackedVector) : Bool :=
  v.words.all (fun w => w &&& 0x80000000 == 0) && v.word (v.nwords - 1) &&& v.padmask == 0

/-- The vector of size `mb` with the words `ws` (00_scope R9, `v[s] <- (mb, ws)`). -/
def PackedVector.make (mb : Nat) (ws : List Word) : PackedVector := ⟨BitVec.ofNat 32 mb, ws⟩

/-- `indexToWord`: the checked translation of a global index (40_storage R100, 20_memory R59). -/
def PackedVector.indexToWord (v : PackedVector) (idx : Int) : Except Exc Nat :=
  if idx < 0 ∨ (v.mb : Int) < idx then .error .indexOutOfRange else .ok (idx.toNat / 31)

/-! ### Ending a command (30_encoding R74 step 4) -/

/-- What a command's own rule answers: it raises before it has written anything, or completes with the state it has
written and a result (30_encoding R74 step 3). -/
abbrev Answer := Except Exc (State × Int)

/-- TAKING AN EXCEPTION (60_exceptions R232, R245): `STATUS.CODE` and `STATUS.STICKY`, nothing else. There is no
handler, no saved state and nothing to return to (R246). -/
def State.raise (s : State) (e : Exc) : State := { s with status := s.status.raised e }

/-- Completing with result `r` (30_encoding R74 step 4). -/
def State.complete (s : State) (r : Int) : State :=
  { s with status := s.status.completed, res := u32 r }

/-- AFTER AN EXCEPTION (60_exceptions R246): nothing is restored, for nothing was saved; the host clears the sticky
flag by writing 1 to bit 8 of `STATUS` (10_state R35). -/
def State.writeStatus (s : State) (x : Word) : State := { s with status := s.status.hostWrite x }

/-- Steps 3 and 4 of 30_encoding R74: an answer that raises leaves the state `s` the command started in. -/
def State.finish (s : State) : Answer → State
  | .error e => s.raise e
  | .ok (s', r) => s'.complete r

/-- `indexToWord` as the first step of an index command: raise, or go on with the word `w` and the bit position `b`
(40_storage R100, R101). -/
def atIndex (v : PackedVector) (idx : Int) (go : Nat → Nat → Answer) : Answer :=
  match v.indexToWord idx with
  | .error e => .error e
  | .ok w => go w (idx.toNat % 31)

/-! ### The frame of a command, one per format (30_encoding R72, R74 steps 1, 2 and 4)

Each makes the slot-number check of step 1 for the fields its format uses, then the source-validity checks of step 2
(`A`, then `B`; `D` never), then runs the command's own rule. -/

/-- Format `F_D`. -/
def commandD (d : SlotNo) (s : State) (rule : Answer) : Host.Outcome State Fault Refusal :=
  .next (if s.hasSlot d then s.finish rule else s.raise .illegalCommand)

/-- Step 2 for field `A`. -/
def State.withA (s : State) (a : SlotNo) (rule : PackedVector → Answer) : State :=
  match s.slot a with
  | none => s.raise .slotInvalid
  | some v => s.finish (rule v)

/-- Step 2 for fields `A` and `B`, in that order. -/
def State.withAB (s : State) (a b : SlotNo) (rule : PackedVector → PackedVector → Answer) : State :=
  match s.slot a with
  | none => s.raise .slotInvalid
  | some v =>
    match s.slot b with
    | none => s.raise .slotInvalid
    | some u => s.finish (rule v u)

/-- Format `F_A`. -/
def commandA (a : SlotNo) (s : State) (rule : PackedVector → Answer) : Host.Outcome State Fault Refusal :=
  .next (if s.hasSlot a then s.withA a rule else s.raise .illegalCommand)

/-- Format `F_AB`. -/
def commandAB (a b : SlotNo) (s : State) (rule : PackedVector → PackedVector → Answer) :
    Host.Outcome State Fault Refusal :=
  .next (if s.hasSlot a && s.hasSlot b then s.withAB a b rule else s.raise .illegalCommand)

/-- Format `F_DA`. -/
def commandDA (d a : SlotNo) (s : State) (rule : PackedVector → Answer) : Host.Outcome State Fault Refusal :=
  .next (if s.hasSlot d && s.hasSlot a then s.withA a rule else s.raise .illegalCommand)

/-- Format `F_DAB`. -/
def commandDAB (d a b : SlotNo) (s : State) (rule : PackedVector → PackedVector → Answer) :
    Host.Outcome State Fault Refusal :=
  .next (if s.hasSlot d && s.hasSlot a && s.hasSlot b then s.withAB a b rule else s.raise .illegalCommand)

/-! ### The ends a command's own rule comes to -/

/-- Complete with result `r`, writing nothing else: the reading commands. -/
def answer (s : State) (r : Int) : Answer := .ok (s, r)

/-- Complete with success after the vector `v` is written to slot `f`. -/
def store (s : State) (f : SlotNo) (v : PackedVector) : Answer := .ok (s.putVector f v, success)

/-- Complete with the length of the text `t`, after writing it (44_codec R202). -/
def emit (s : State) (t : List Byte) : Answer := .ok (s.putText t, t.length)

end Sys2Proof.Machine
end

