-- ==== Sys2Proof/Machine/Algebra.lean ====
section
/-! DEFINITION. Set algebra, cardinality, predicates (43_algebra). -/

namespace Sys2Proof.Machine

/-- The word-wise combination of `v` with the words `ws`, of `v`'s size (43_algebra R170, R171). -/
def PackedVector.combine (v : PackedVector) (f : Word → Word → Word) (ws : List Word) : PackedVector :=
  { v with words := List.zipWith f v.words ws }

/-- The capacity check of the binary commands: on word counts, not on `maxBit` (43_algebra R171). -/
def sameSize (v u : PackedVector) (go : Answer) : Answer :=
  if v.nwords = u.nwords then go else .error .capacityMismatch

/-- `AND`, `OR`, `XOR` (43_algebra R170 to R175): everything is read before `D` is written (R172). -/
def algebraCommand (f : Word → Word → Word) (d a b : SlotNo) (s : State) : Host.Outcome State Fault Refusal :=
  commandDAB d a b s fun v u => sameSize v u (store s d (v.combine f u.words))

/-- `onehotvec(A, idx)`: the words of the vector of `v`'s size with exactly bit `b` of word `w` set
(43_algebra R177). -/
def PackedVector.onehotWords (v : PackedVector) (w b : Nat) : List Word :=
  (List.range v.nwords).map fun i => if i = w then onehot b else 0

/-- `ANDI`, `ORI`, `XORI` (43_algebra R177 to R180). -/
def onehotCommand (f : Word → Word → Word) (d a : SlotNo) (s : State) : Host.Outcome State Fault Refusal :=
  commandDA d a s fun v =>
    atIndex v s.operand0 fun w b => store s d (v.combine f (v.onehotWords w b))

/-- `AND vD, vA, vB` (43_algebra R173). -/
def execAnd (d a b : SlotNo) (s : State) : Host.Outcome State Fault Refusal := algebraCommand (· &&& ·) d a b s

/-- `OR vD, vA, vB` (43_algebra R174). -/
def execOr (d a b : SlotNo) (s : State) : Host.Outcome State Fault Refusal := algebraCommand (· ||| ·) d a b s

/-- `XOR vD, vA, vB` (43_algebra R175). -/
def execXor (d a b : SlotNo) (s : State) : Host.Outcome State Fault Refusal := algebraCommand (· ^^^ ·) d a b s

/-- `ANDI vD, vA, idx` (43_algebra R178). -/
def execAndi (d a : SlotNo) (s : State) : Host.Outcome State Fault Refusal := onehotCommand (· &&& ·) d a s

/-- `ORI vD, vA, idx` (43_algebra R179). -/
def execOri (d a : SlotNo) (s : State) : Host.Outcome State Fault Refusal := onehotCommand (· ||| ·) d a s

/-- `XORI vD, vA, idx` (43_algebra R180). -/
def execXori (d a : SlotNo) (s : State) : Host.Outcome State Fault Refusal := onehotCommand (· ^^^ ·) d a s

/-- The population count of a vector, padding included (43_algebra R184, 90_conflicts C8). -/
def PackedVector.cardinality (v : PackedVector) : Nat := (v.words.map popcount).sum

/-- `CARD vA` (43_algebra R184). -/
def execCard (a : SlotNo) (s : State) : Host.Outcome State Fault Refusal :=
  commandA a s fun v => answer s v.cardinality

/-- `ISEMPTY vA` (43_algebra R185). -/
def execIsempty (a : SlotNo) (s : State) : Host.Outcome State Fault Refusal :=
  commandA a s fun v => answer s (truth (v.words.all (· == 0)))

/-- `ISEQUAL vA, vB`: words only, `maxBit` is not compared (43_algebra R186). -/
def execIsequal (a b : SlotNo) (s : State) : Host.Outcome State Fault Refusal :=
  commandAB a b s fun v u => sameSize v u (answer s (truth (v.words == u.words)))

/-- Every bit of `v` is a bit of `u`, word by word (43_algebra R187). -/
def PackedVector.within (v u : PackedVector) : Bool :=
  (List.zipWith (fun x y => x &&& y == x) v.words u.words).all id

/-- `ISSUBSET vA, vB` (43_algebra R187). -/
def execIssubset (a b : SlotNo) (s : State) : Host.Outcome State Fault Refusal :=
  commandAB a b s fun v u => sameSize v u (answer s (truth (v.within u)))

end Sys2Proof.Machine
end

