-- ==== Sys2Proof/Machine/Codec.lean ====
section
/-! DEFINITION. The text codec: `TOSTR`, `DEHYD`, `REHYD` (44_codec). -/

namespace Sys2Proof.Machine

/-- The comma, `0x2C` (44_codec R200). -/
def comma : Byte := 0x2C

/-- The digit `d`, `0 <= d <= 9`, in ASCII (44_codec R200). -/
def digit (d : Nat) : Byte := BitVec.ofNat 8 (0x30 + d)

/-- The decimal numeral of `n`, most significant digit first, in at most `k + 1` digits. -/
def decimalDigits : Nat → Nat → List Byte
  | 0, n => [digit (n % 10)]
  | k + 1, n => if n < 10 then [digit n] else decimalDigits k (n / 10) ++ [digit (n % 10)]

/-- `dec(n)` (44_codec R201): `n` has no more than `n + 1` digits. -/
def dec (n : Nat) : List Byte := decimalDigits n n

/-! ### TOSTR -/

/-- The 31 characters of a word, bit 30 first (44_codec R204). -/
def binaryGroup (x : Word) : List Byte :=
  (List.range 31).reverse.map fun b => if x.getLsbD b then digit 1 else digit 0

/-- The text of `TOSTR`: most significant word first, no separator (44_codec R204). -/
def PackedVector.binaryText (v : PackedVector) : List Byte := v.words.reverse.flatMap binaryGroup

/-- `TOSTR vA` (44_codec R204). -/
def execTostr (a : SlotNo) (s : State) : Host.Outcome State Fault Refusal :=
  commandA a s fun v => emit s v.binaryText

/-! ### DEHYD -/

/-- `lz`, the count of leading all-zero words (44_codec R210, R212). -/
def PackedVector.leadingZeroWords (v : PackedVector) : Nat := (v.words.takeWhile (· == 0)).length

/-- The emitted words `words[lz .. m]`: both ends stripped of all-zero words (44_codec R210, R211). -/
def PackedVector.strippedWords (v : PackedVector) : List Word :=
  ((v.words.drop v.leadingZeroWords).reverse.dropWhile (· == 0)).reverse

/-- The dehydrated text (44_codec R210 to R212). -/
def PackedVector.dehydrated (v : PackedVector) : List Byte :=
  v.strippedWords.flatMap (fun x => dec x.toNat ++ [comma]) ++ dec v.leadingZeroWords ++ [comma] ++ dec v.mb

/-- `DEHYD vA` (44_codec R210). -/
def execDehyd (a : SlotNo) (s : State) : Host.Outcome State Fault Refusal :=
  commandA a s fun v => emit s v.dehydrated

/-! ### REHYD -/

/-- The lexical pass (44_codec R220, R222): the numbers of the text, or `none` where it is malformed. `cur` is the
number being read, `nums` the numbers read so far. -/
def lexText : List Byte → Option Nat → List Nat → Option (List Nat)
  | [], none, _ => none
  | [], some n, nums => some (nums ++ [n])
  | c :: t, cur, nums =>
    if 0x30 ≤ c.toNat ∧ c.toNat ≤ 0x39 then
      let n := cur.getD 0 * 10 + (c.toNat - 0x30)
      if 2 ^ 32 ≤ n then none else lexText t (some n) nums
    else if c = comma then
      match cur with
      | none => none
      | some n => lexText t none (nums ++ [n])
    else none

/-- The structure, size and word-value checks and the build (44_codec R220, R223 to R227), in the order of R220. -/
def rebuild (p : Config.Params) (nums : List Nat) : Except Exc PackedVector :=
  if nums.length < 2 then .error .malformedEncoding
  else
    let mb := nums.getD (nums.length - 1) 0
    let lz := nums.getD (nums.length - 2) 0
    let given := nums.take (nums.length - 2)
    let nw := mb / 31 + 1
    if p.maxcap - 1 < mb then .error .badCapacity
    else if nw < lz + given.length then .error .malformedEncoding
    else if given.any (fun x => decide (2 ^ 31 ≤ x)) then .error .malformedEncoding
    else .ok (.make mb (List.replicate lz 0 ++ given.map (BitVec.ofNat 32) ++
      List.replicate (nw - lz - given.length) 0))

/-- What a text decodes to (44_codec R220). -/
def rehydrated (p : Config.Params) (t : List Byte) : Except Exc PackedVector :=
  match lexText t none [] with
  | none => .error .malformedEncoding
  | some nums => rebuild p nums

/-- `REHYD vD` (44_codec R220, R221): a `TEXTLEN` past the buffer raises before anything is read. -/
def execRehyd (d : SlotNo) (s : State) : Host.Outcome State Fault Refusal :=
  commandD d s (
    if s.params.textbytes < s.textlen.toNat then .error .malformedEncoding
    else
      match rehydrated s.params (s.textRead s.textlen.toNat) with
      | .error e => .error e
      | .ok v => store s d v)

end Sys2Proof.Machine
end

