-- ==== Sys2Proof/Machine/Mutate.lean ====
section
/-! DEFINITION. Mutation: point and range mutators, `CLEAR`, `CLONE` (42_mutation). -/

namespace Sys2Proof.Machine

/-- The three ways a mask is applied to a word (42_mutation R150). -/
inductive Mutation where
  | setBits
  | unsetBits
  | toggleBits
  deriving DecidableEq, Repr

/-- `apply(kind, x, m)` (42_mutation R150). -/
def applyMask : Mutation → Word → Word → Word
  | .setBits, x, m => x ||| m
  | .unsetBits, x, m => x &&& ~~~ m
  | .toggleBits, x, m => x ^^^ m

/-- The vector after one bit is mutated: exactly one word is read and written (42_mutation R151). -/
def PackedVector.pointed (v : PackedVector) (kind : Mutation) (w b : Nat) : PackedVector :=
  { v with words := v.words.modify w fun x => applyMask kind x (onehot b) }

/-- `point(A, kind)` (42_mutation R151). -/
def pointCommand (kind : Mutation) (a : SlotNo) (s : State) : Host.Outcome State Fault Refusal :=
  commandA a s fun v => atIndex v s.operand0 fun w b => store s a (v.pointed kind w b)

/-- The mask of word `i` for the range `lo` to `hi`, `i` between their words (42_mutation R156, R157). -/
def rangeMask (lo hi i : Nat) : Word :=
  let curStart := if i = lo / 31 then lo % 31 else 0
  let curEnd := if i = hi / 31 then hi % 31 else 30
  mask (curEnd - curStart + 1) curStart

/-- The vector after the range `lo` to `hi` is mutated, word by word (42_mutation R156). -/
def PackedVector.ranged (v : PackedVector) (kind : Mutation) (lo hi : Nat) : PackedVector :=
  { v with words := v.words.mapIdx fun i x =>
      if lo / 31 ≤ i ∧ i ≤ hi / 31 then applyMask kind x (rangeMask lo hi i) else x }

/-- `range(A, kind)`: swap into order, check both ends before any write, then mutate (42_mutation R156). -/
def rangeCommand (kind : Mutation) (a : SlotNo) (s : State) : Host.Outcome State Fault Refusal :=
  commandA a s fun v =>
    let lo := min s.operand0 s.operand1
    let hi := max s.operand0 s.operand1
    atIndex v lo fun _ _ => atIndex v hi fun _ _ => store s a (v.ranged kind lo.toNat hi.toNat)

/-- `SET vA, idx` (42_mutation R152). -/
def execSet (a : SlotNo) (s : State) : Host.Outcome State Fault Refusal := pointCommand .setBits a s

/-- `UNSET vA, idx` (42_mutation R153). -/
def execUnset (a : SlotNo) (s : State) : Host.Outcome State Fault Refusal := pointCommand .unsetBits a s

/-- `TOGGLE vA, idx` (42_mutation R154). -/
def execToggle (a : SlotNo) (s : State) : Host.Outcome State Fault Refusal := pointCommand .toggleBits a s

/-- `SETRANGE vA, from, to` (42_mutation R158). -/
def execSetrange (a : SlotNo) (s : State) : Host.Outcome State Fault Refusal := rangeCommand .setBits a s

/-- `UNSETRANGE vA, from, to` (42_mutation R159). -/
def execUnsetrange (a : SlotNo) (s : State) : Host.Outcome State Fault Refusal := rangeCommand .unsetBits a s

/-- `TOGGLERANGE vA, from, to` (42_mutation R160). -/
def execTogglerange (a : SlotNo) (s : State) : Host.Outcome State Fault Refusal := rangeCommand .toggleBits a s

/-- `CLEAR vA`: every word is zeroed, padding included (42_mutation R162). -/
def execClear (a : SlotNo) (s : State) : Host.Outcome State Fault Refusal :=
  commandA a s fun v => store s a { v with words := v.words.map fun _ => 0 }

/-- `CLONE vD, vA` (42_mutation R163, R164). -/
def execClone (d a : SlotNo) (s : State) : Host.Outcome State Fault Refusal :=
  commandDA d a s fun v => store s d v

end Sys2Proof.Machine
end

