-- ==== Sys2Proof/Machine/Scan.lean ====
section
/-! DEFINITION. The eight scan commands (41_bitscan). -/

namespace Sys2Proof.Machine

/-- The words an upward scan from `f` examines, in order (41_bitscan R125). -/
def upWords (v : PackedVector) (f : Int) : List Nat :=
  List.range' f.toNat (v.nwords - f.toNat)

/-- The words a downward scan from `f` examines, in order (41_bitscan R125). -/
def downWords (v : PackedVector) (f : Int) : List Nat :=
  (List.range (min f ((v.nwords : Int) - 1) + 1).toNat).reverse

/-- The set bits of word `i`, restricted to the usable bits (41_bitscan R124). -/
def PackedVector.ones (v : PackedVector) (i : Nat) : Word := v.word i &&& Config.full

/-- The unset bits of word `i`, restricted to the usable bits (41_bitscan R124). -/
def PackedVector.zeros (v : PackedVector) (i : Nat) : Word := ~~~ (v.word i) &&& Config.full

/-- The unset bits of word `i` that are no padding: the last word's padding is forced to 1 first
(41_bitscan R129). -/
def PackedVector.logicalZeros (v : PackedVector) (i : Nat) : Word :=
  ~~~ (if i + 1 = v.nwords then v.word i ||| v.padmask else v.word i) &&& Config.full

/-- Scan the words `order` as `look` shows them: the global index of position `pos` in the first that is not zero
(41_bitscan R124). -/
def scanWords (order : List Nat) (look : Nat → Word) (pos : Word → Nat) : Option Nat :=
  (order.find? fun i => look i != 0).map fun i => pos (look i) + 31 * i

/-- A hit above `maxBit` counts as none (41_bitscan R126, R130). -/
def PackedVector.clamp (v : PackedVector) : Option Nat → Option Nat
  | some r => if r ≤ v.mb then some r else none
  | none => none

/-- `ffs(s, f)` (41_bitscan R126). -/
def PackedVector.ffs (v : PackedVector) (f : Int) : Option Nat := v.clamp (scanWords (upWords v f) v.ones lsb)

/-- `ffz(s, f)` (41_bitscan R127). -/
def PackedVector.ffz (v : PackedVector) (f : Int) : Option Nat := v.clamp (scanWords (upWords v f) v.zeros lsb)

/-- `fls(s, f)` (41_bitscan R128); no clamp (90_conflicts C7). -/
def PackedVector.fls (v : PackedVector) (f : Int) : Option Nat := scanWords (downWords v f) v.ones msb

/-- `flz(s, f)` (41_bitscan R129). -/
def PackedVector.flz (v : PackedVector) (f : Int) : Option Nat := scanWords (downWords v f) v.logicalZeros msb

/-- `NEXTSET` from bit `b` of word `w`: bits below `b` masked off, then `ffs` from the next word (41_bitscan R130). -/
def PackedVector.nextSet (v : PackedVector) (w b : Nat) : Option Nat :=
  let x := v.word w &&& mask (31 - b) b
  if x ≠ 0 then v.clamp (some (lsb x + 31 * w)) else v.ffs (w + 1)

/-- `NEXTUNSET` from bit `b` of word `w`: bits below `b` forced to 1, then `ffz` from the next word
(41_bitscan R131). -/
def PackedVector.nextUnset (v : PackedVector) (w b : Nat) : Option Nat :=
  let x := ~~~ (v.word w ||| BitVec.ofNat 32 (2 ^ b - 1)) &&& Config.full
  if x ≠ 0 then v.clamp (some (lsb x + 31 * w)) else v.ffz (w + 1)

/-- `PREVSET` from bit `b` of word `w`: bits above `b` masked off, then `fls` on the previous word
(41_bitscan R132). -/
def PackedVector.prevSet (v : PackedVector) (w b : Nat) : Option Nat :=
  let x := v.word w &&& mask (b + 1) 0
  if x ≠ 0 then some (msb x + 31 * w) else v.fls ((w : Int) - 1)

/-- `PREVUNSET` from bit `b` of word `w`: bits above `b` forced to 1, then `flz` on the previous word
(41_bitscan R133). -/
def PackedVector.prevUnset (v : PackedVector) (w b : Nat) : Option Nat :=
  let x := ~~~ (v.word w ||| (Config.full &&& ~~~ (mask (b + 1) 0))) &&& Config.full
  if x ≠ 0 then some (msb x + 31 * w) else v.flz ((w : Int) - 1)

/-- `FFS vA, fromWord` (41_bitscan R126). -/
def execFfs (a : SlotNo) (s : State) : Host.Outcome State Fault Refusal :=
  commandA a s fun v => answer s (scanResult (v.ffs s.operand0))

/-- `FFZ vA, fromWord` (41_bitscan R127). -/
def execFfz (a : SlotNo) (s : State) : Host.Outcome State Fault Refusal :=
  commandA a s fun v => answer s (scanResult (v.ffz s.operand0))

/-- `FLS vA, fromWord` (41_bitscan R128). -/
def execFls (a : SlotNo) (s : State) : Host.Outcome State Fault Refusal :=
  commandA a s fun v => answer s (scanResult (v.fls s.operand0))

/-- `FLZ vA, fromWord` (41_bitscan R129). -/
def execFlz (a : SlotNo) (s : State) : Host.Outcome State Fault Refusal :=
  commandA a s fun v => answer s (scanResult (v.flz s.operand0))

/-- `NEXTSET vA, idx` (41_bitscan R130). -/
def execNextset (a : SlotNo) (s : State) : Host.Outcome State Fault Refusal :=
  commandA a s fun v => atIndex v s.operand0 fun w b => answer s (scanResult (v.nextSet w b))

/-- `NEXTUNSET vA, idx` (41_bitscan R131). -/
def execNextunset (a : SlotNo) (s : State) : Host.Outcome State Fault Refusal :=
  commandA a s fun v => atIndex v s.operand0 fun w b => answer s (scanResult (v.nextUnset w b))

/-- `PREVSET vA, idx` (41_bitscan R132). -/
def execPrevset (a : SlotNo) (s : State) : Host.Outcome State Fault Refusal :=
  commandA a s fun v => atIndex v s.operand0 fun w b => answer s (scanResult (v.prevSet w b))

/-- `PREVUNSET vA, idx` (41_bitscan R133). -/
def execPrevunset (a : SlotNo) (s : State) : Host.Outcome State Fault Refusal :=
  commandA a s fun v => atIndex v s.operand0 fun w b => answer s (scanResult (v.prevUnset w b))

end Sys2Proof.Machine
end

