-- ==== Sys2Proof/Machine/Storage.lean ====
section
/-! DEFINITION. Storage and indexing: `NEW`, `I2W`, `GET` (40_storage_indexing). -/

namespace Sys2Proof.Machine

/-- The capacity `NEW` gives a request `n`: 31 for 0, otherwise `n` (40_storage R102). -/
def effectiveCapacity (n : Int) : Nat := if n = 0 then 31 else n.toNat

/-- The all-zero vector of capacity `n >= 1` (40_storage R102). -/
def zeroVector (n : Nat) : PackedVector := .make (n - 1) (List.replicate (ceil31 n) 0)

/-- `NEW vD, n` (40_storage R102). -/
def execNew (d : SlotNo) (s : State) : Host.Outcome State Fault Refusal :=
  commandD d s (
    if s.operand0 < 0 then .error .badCapacity
    else if s.params.maxcap < effectiveCapacity s.operand0 then .error .badCapacity
    else store s d (zeroVector (effectiveCapacity s.operand0)))

/-- `I2W vA, idx` (40_storage R104). -/
def execI2w (a : SlotNo) (s : State) : Host.Outcome State Fault Refusal :=
  commandA a s fun v => atIndex v s.operand0 fun w _ => answer s w

/-- `GET vA, idx` (40_storage R105). -/
def execGet (a : SlotNo) (s : State) : Host.Outcome State Fault Refusal :=
  commandA a s fun v => atIndex v s.operand0 fun w b => answer s (((v.word w >>> b) &&& 1).toNat)

end Sys2Proof.Machine
end

