-- ==== Sys2Proof/Machine/Dispatch.lean ====
section
/-! DEFINITION. Which meaning each command has: one arm a constructor. -/

namespace Sys2Proof.Machine

def exec (i : Instr) (s : State) : Host.Outcome State Fault Refusal :=
  match i with
  | .new d => Sys2Proof.Machine.execNew d s
  | .i2w a => Sys2Proof.Machine.execI2w a s
  | .get a => Sys2Proof.Machine.execGet a s
  | .ffs a => Sys2Proof.Machine.execFfs a s
  | .ffz a => Sys2Proof.Machine.execFfz a s
  | .fls a => Sys2Proof.Machine.execFls a s
  | .flz a => Sys2Proof.Machine.execFlz a s
  | .nextset a => Sys2Proof.Machine.execNextset a s
  | .nextunset a => Sys2Proof.Machine.execNextunset a s
  | .prevset a => Sys2Proof.Machine.execPrevset a s
  | .prevunset a => Sys2Proof.Machine.execPrevunset a s
  | .set a => Sys2Proof.Machine.execSet a s
  | .unset a => Sys2Proof.Machine.execUnset a s
  | .toggle a => Sys2Proof.Machine.execToggle a s
  | .setrange a => Sys2Proof.Machine.execSetrange a s
  | .unsetrange a => Sys2Proof.Machine.execUnsetrange a s
  | .togglerange a => Sys2Proof.Machine.execTogglerange a s
  | .clear a => Sys2Proof.Machine.execClear a s
  | .clone d a => Sys2Proof.Machine.execClone d a s
  | .and d a b => Sys2Proof.Machine.execAnd d a b s
  | .or d a b => Sys2Proof.Machine.execOr d a b s
  | .xor d a b => Sys2Proof.Machine.execXor d a b s
  | .andi d a => Sys2Proof.Machine.execAndi d a s
  | .ori d a => Sys2Proof.Machine.execOri d a s
  | .xori d a => Sys2Proof.Machine.execXori d a s
  | .card a => Sys2Proof.Machine.execCard a s
  | .isempty a => Sys2Proof.Machine.execIsempty a s
  | .isequal a b => Sys2Proof.Machine.execIsequal a b s
  | .issubset a b => Sys2Proof.Machine.execIssubset a b s
  | .dehyd a => Sys2Proof.Machine.execDehyd a s
  | .rehyd d => Sys2Proof.Machine.execRehyd d s
  | .tostr a => Sys2Proof.Machine.execTostr a s

end Sys2Proof.Machine
end

