-- ==== Sys2Proof/Machine/Transactions.lean ====
section
/-! DEFINITION. What acts on the block from outside: the four host transactions (20_memory R52), the register file the
host sees (10_state R32 to R37), a `CMD` write (30_encoding R74), the default bus binding (20_memory R54, R55, R58)
and the external reset (70_reset R260). -/

namespace Sys2Proof.Machine

/-! ### Registers, as the host reads and writes them -/

/-- `VALID`: bit `f` is the valid bit of slot `f`, for `f < NSLOTS`; the other bits read 0 (10_state R37). -/
def State.validBits (s : State) : Word :=
  (BitVec.ofFnLE fun f : Fin 16 => s.hasSlot f && (s.slot f).isSome).setWidth 32

/-- `MAXBIT[f]` (10_state R37); the place of a slot that does not exist reads 0 (20_memory R58; assumption 9). -/
def State.maxBitWord (s : State) (f : SlotNo) : Word :=
  if s.hasSlot f then
    match s.slot f with
    | none => 0xFFFFFFFF
    | some v => v.maxBit
  else 0

/-- `NWORDS[f]` (10_state R37); the place of a slot that does not exist reads 0 (20_memory R58; assumption 9). -/
def State.nwordsWord (s : State) (f : SlotNo) : Word :=
  if s.hasSlot f then
    match s.slot f with
    | none => 0
    | some v => BitVec.ofNat 32 v.nwords
  else 0

/-- The value a `RegRead` returns (20_memory R52, 10_state R32 to R37). -/
def State.readReg (s : State) : Reg → Word
  | .cmd => s.cmd
  | .arg0 => s.arg0
  | .arg1 => s.arg1
  | .status => s.status.toWord
  | .res => s.res
  | .textlen => s.textlen
  | .valid => s.validBits
  | .maxBitOf f => s.maxBitWord f
  | .nwordsOf f => s.nwordsWord f
  | .nslotsR => BitVec.ofNat 32 s.params.nslots
  | .maxwordsR => BitVec.ofNat 32 s.params.maxwords
  | .textbytesR => BitVec.ofNat 32 s.params.textbytes

/-- `RegWrite(CMD, x)`: store the word, then execute it (30_encoding R74, 10_state R33). A word the decoder rejects
raises `IllegalCommand` (R76). -/
def writeCmd (x : Word) (s : State) : Host.Outcome State Fault Refusal :=
  match decode x with
  | .error _ => .next (State.raise { s with cmd := x } .illegalCommand)
  | .ok i => exec i { s with cmd := x }

/-- `RegWrite(r, x)` (20_memory R52). -/
def writeReg (r : Reg) (x : Word) (s : State) : Host.Outcome State Fault Refusal :=
  match r with
  | .cmd => writeCmd x s
  | .arg0 => .next { s with arg0 := x }
  | .arg1 => .next { s with arg1 := x }
  | .status => .next (s.writeStatus x)
  | .res => .next s
  | .textlen => .next { s with textlen := x }
  | .valid => .next s
  | .maxBitOf _ => .next s
  | .nwordsOf _ => .next s
  | .nslotsR => .next s
  | .maxwordsR => .next s
  | .textbytesR => .next s

/-! ### The text buffer, as the host reads and writes it -/

/-- The value a `TextRead(i)` returns: 0 outside the buffer (20_memory R52). -/
def State.hostTextRead (s : State) (i : Nat) : Byte := if i < s.params.textbytes then s.textByte i else 0

/-- `TextWrite(i, b)`: ignored outside the buffer (20_memory R52). -/
def State.hostTextWrite (s : State) (i : Nat) (b : Byte) : State :=
  if i < s.params.textbytes then s.textWrite i [b] else s

/-- The run has observed one more value (70_reset R274). -/
def State.observe (s : State) (r : Reading) : State := { s with observed := s.observed ++ [r] }

/-- The run has observed the bytes `bs`, one value each, in order (20_memory R55, 70_reset R274). -/
def State.observeBytes (s : State) (bs : List Byte) : State :=
  { s with observed := s.observed ++ bs.map Reading.byte }

/-- One host transaction (20_memory R52). -/
def performTxn (t : Txn) (s : State) : Host.Outcome State Fault Refusal :=
  match t with
  | .regWrite r x => writeReg r x s
  | .regRead r => .next (s.observe (.word (s.readReg r)))
  | .textWrite i b => .next (s.hostTextWrite i b)
  | .textRead i => .next (s.observe (.byte (s.hostTextRead i)))

/-! ### The default bus binding (20_memory R54, R55, R58) -/

/-- Bytes moved by an access (20_memory R55). -/
def BusWidth.bytes : BusWidth → Nat
  | .byte => 1
  | .half => 2
  | .word => 4

/-- The register whose 4-byte place holds the byte offset `o` (20_memory R58). -/
def regPlace (p : Config.Params) (o : Nat) : Option Reg :=
  match o / 4 with
  | 0 => some .cmd
  | 1 => some .arg0
  | 2 => some .arg1
  | 3 => some .status
  | 4 => some .res
  | 5 => some .textlen
  | 6 => some .valid
  | 8 => some .nslotsR
  | 9 => some .maxwordsR
  | 10 => some .textbytesR
  | k =>
    if h : 16 ≤ k ∧ k < 48 then
      if (k - 16) / 2 < p.nslots then
        if k % 2 = 0 then some (.maxBitOf ⟨(k - 16) / 2, by omega⟩) else some (.nwordsOf ⟨(k - 16) / 2, by omega⟩)
      else none
    else none

/-- How the binding takes an access: a register transaction, byte transactions, or refused, when it touches a
register and is not a 32-bit access at that register's offset (20_memory R55). -/
inductive BusTarget where
  | register (r : Reg)
  | bytes
  | refused
  deriving DecidableEq, Repr

/-- The target of an access of width `w` at offset `o` (20_memory R55, R58; assumption 8). -/
def busTarget (p : Config.Params) (w : BusWidth) (o : Nat) : BusTarget :=
  match (List.range w.bytes).findSome? (fun k => regPlace p (o + k)) with
  | none => .bytes
  | some r => if w = .word ∧ o % 4 = 0 then .register r else .refused

/-- `0x1000`, where the text window begins (20_memory R58). -/
def textWindow : Nat := 0x1000

/-- A byte read at offset `o`, where no register stands: a text byte, or 0 (20_memory R58). -/
def State.busReadByte (s : State) (o : Nat) : Byte :=
  if textWindow ≤ o then s.hostTextRead (o - textWindow) else 0

/-- A byte write at offset `o`, where no register stands: a text byte, or ignored (20_memory R58). -/
def State.busWriteByte (s : State) (o : Nat) (b : Byte) : State :=
  if textWindow ≤ o then s.hostTextWrite (o - textWindow) b else s

/-- The value of bytes read at rising addresses, little-endian (20_memory R54). -/
def littleEndian : List Byte → Nat
  | [] => 0
  | b :: bs => b.toNat + 2 ^ 8 * littleEndian bs

/-- The bytes a read of `n` bytes at offset `o` returns, in ascending address order (20_memory R55). -/
def State.busReadBytes (s : State) (n o : Nat) : List Byte := (List.range n).map fun k => s.busReadByte (o + k)

/-- The bus word such a read shows the host: its bytes, the one at the lowest address in bits 7:0 (20_memory R54).
What the run observes are the bytes themselves (R55, 70_reset R274). DESIGN CHOICE (assumption 23, unsafe): the spec
does not say what a bus word carries in an 8- or 16-bit read; here the data is in the low bits and the upper bits
are 0. -/
def State.busWord (s : State) (w : BusWidth) (o : Nat) : Word :=
  BitVec.ofNat 32 (littleEndian (s.busReadBytes w.bytes o))

/-- Byte `k` of a written value, little-endian (20_memory R54). -/
def byteOf (x : Word) (k : Nat) : Byte := x.extractLsb' (8 * k) 8

/-- The byte transactions of a write of `n` bytes, in ascending address order (20_memory R55). DESIGN CHOICE
(assumption 23, unsafe): an 8- or 16-bit write takes its data from the low bits of `x` and ignores the upper bits,
which the spec does not say. -/
def State.busWriteBytes (s : State) (n o : Nat) (x : Word) : State :=
  (List.range n).foldl (fun t k => t.busWriteByte (o + k) (byteOf x k)) s

/-- A bus access under the default binding. A register access is that register's transaction; any other access is 1, 2
or 4 byte transactions, each of whose values the run observes (20_memory R55, 70_reset R274; of a hole: assumption 6).
A refused access is no transaction and returns no value (93 U16; assumption 8). -/
def performBus (a : BusAccess) (s : State) : Host.Outcome State Fault Refusal :=
  match a with
  | .read w o =>
    match busTarget s.params w o with
    | .register r => .next (s.observe (.word (s.readReg r)))
    | .bytes => .next (s.observeBytes (s.busReadBytes w.bytes o))
    | .refused => .next s
  | .write w o x =>
    match busTarget s.params w o with
    | .register r => writeReg r x s
    | .bytes => .next (s.busWriteBytes w.bytes o x)
    | .refused => .next s

/-! ### Reset and the inputs -/

/-- The external reset (70_reset R260, 10_state R42): every piece of state at its reset value. The parameters are
constants, the inputs still to come and the values observed are the host's, and the text bytes are unspecified anew
(assumptions 3 and 7). -/
def State.applyReset (s : State) : State :=
  { State.resetOf s.params with textEpoch := s.textEpoch + 1, pending := s.pending, observed := s.observed }

/-- One input, acting between two commands (20_memory R52, 70_reset R260). -/
def perform (i : Input) (s : State) : Host.Outcome State Fault Refusal :=
  match i with
  | .txn t => performTxn t s
  | .bus a => performBus a s
  | .reset => .next s.applyReset

/-- A list of inputs, in order (70_reset R274). -/
def performAll : List Input → State → Host.Outcome State Fault Refusal
  | [], s => .next s
  | i :: is, s =>
    match perform i s with
    | .next s' => performAll is s'
    | .fault r => .fault r
    | .refused r => .refused r

end Sys2Proof.Machine
end

