-- ==== Sys2Proof/Machine/Step.lean ====
section
/-! DEFINITION. One step: the next host input (10_state R30, 70_reset R274). -/

namespace Sys2Proof.Machine

/-- One step consumes the head of the pending inputs (10_state R30). With none pending the engine is idle and holds
its state (60_exceptions R255, 70_reset R261, R274; assumption 5). -/
def step (s : State) : Host.Outcome State Fault Refusal :=
  match s.pending with
  | [] => .next s
  | i :: rest => perform i { s with pending := rest }

/-- `s` with the next input the write of the `nbits`-bit word `w` to `CMD`: what a fetch is on this machine
(10_state R30, 20_memory R63; assumption 4). -/
def State.withFetchWord (s : State) (nbits w : Nat) : State :=
  { s with pending := .txn (.regWrite .cmd (BitVec.ofNat 32 (w % 2 ^ nbits))) :: s.pending }

end Sys2Proof.Machine
end

