-- ==== Sys2Proof/Machine/HostMacros.lean ====
section
/-! DEFINITION. The host's side of the spec: the assembler (30_encoding R80), the pseudo-instructions for default
arguments (R85), the macros (R86) and the loops `FOREACH` and `GETINDICES` (R88). They are lists of transactions or
host loops over commands, not commands. -/

namespace Sys2Proof.Machine

/-- The numeric arguments a command's assembly line carries (30_encoding R73, R80). -/
inductive Args where
  | none
  | one (arg0 : Int)
  | two (arg0 arg1 : Int)
  deriving DecidableEq, Repr

/-- The argument writes of an assembly line (30_encoding R80). -/
def argWrites : Args → List Input
  | .none => []
  | .one x => [.txn (.regWrite .arg0 (u32 x))]
  | .two x y => [.txn (.regWrite .arg0 (u32 x)), .txn (.regWrite .arg1 (u32 y))]

/-- The transactions of one assembly line, in order (30_encoding R80). DESIGN CHOICE (assumption 22, unsafe): the spec
gives each command its arguments (R73) and says nothing of a line that carries more or fewer; here such a line writes
the arguments it carries, and no other, and then `CMD`. -/
def assemble (i : Instr) (args : Args) : List Input := argWrites args ++ [.txn (.regWrite .cmd (encode i))]

/-- `FFS0 vA` (30_encoding R85). -/
def ffs0 (a : SlotNo) : List Input := assemble (.ffs a) (.one 0)

/-- `FFZ0 vA` (30_encoding R85). -/
def ffz0 (a : SlotNo) : List Input := assemble (.ffz a) (.one 0)

/-- `FLSL vA` (30_encoding R85). -/
def flsl (a : SlotNo) : List Input := assemble (.fls a) (.one 0x7FFFFFFF)

/-- `FLZL vA` (30_encoding R85). -/
def flzl (a : SlotNo) : List Input := assemble (.flz a) (.one 0x7FFFFFFF)

/-- `TEXT "..."`: the characters, then their count (30_encoding R86). -/
def textMacro (cs : List Byte) : List Input :=
  cs.zipIdx.map (fun c => .txn (.textWrite c.2 c.1)) ++ [.txn (.regWrite .textlen (BitVec.ofNat 32 cs.length))]

/-- `CLRERR` (30_encoding R86). -/
def clrErr : List Input := [.txn (.regWrite .status 0x00000100)]

/-- `RDRES` (30_encoding R86). -/
def rdRes : List Input := [.txn (.regRead .res)]

/-- `RDSTATUS` (30_encoding R86). -/
def rdStatus : List Input := [.txn (.regRead .status)]

/-- `RDTEXT`, with `k` the value its `RegRead(TEXTLEN)` returns (30_encoding R86). -/
def rdText (s : State) : List Input :=
  .txn (.regRead .textlen) :: (List.range s.textlen.toNat).map fun i => .txn (.textRead i)

/-- The loop of `FOREACH vA` (30_encoding R88) after a scan has put `i` in `RES`: visit `i`, leave when the visitor
says stop or `i` is the guard `mb`, else `NEXTSET vA, i+1`. Answers the visited indices and the last state. `fuel`
bounds the visits (assumption 16). DESIGN CHOICE (assumption 20, unsafe): the spec leaves the form of the stop signal
open (91 N18); here the visitor is a predicate of the index alone, with no memory and no transactions of its own. -/
def foreachLoop (a : SlotNo) (mb : Int) (stop : Int → Bool) : Nat → State → List Int → List Int × State
  | 0, s, seen => (seen, s)
  | fuel + 1, s, seen =>
    let i := s32 s.res
    if i = -1 then (seen, s)
    else if stop i || i == mb then (seen ++ [i], s)
    else
      match performAll (assemble (.nextset a) (.one (i + 1)) ++ rdRes) s with
      | .next s' => foreachLoop a mb stop fuel s' (seen ++ [i])
      | .fault _ => (seen ++ [i], s)
      | .refused _ => (seen ++ [i], s)

/-- `FOREACH vA` (30_encoding R88): read the guard, `FFS vA, 0`, then the loop. A vector has `maxBit + 1` indices, so
that many visits and one last look suffice. DESIGN CHOICE (assumption 21, unsafe): on a slot that holds no vector, or
does not exist, every scan raises and `RES` is stale, R88 does not say what the loop then does, and the model stops at
the end of its fuel, after at most one visit, two for a slot that does not exist. -/
def foreach (a : SlotNo) (stop : Int → Bool) (s : State) : List Int × State :=
  let mb := s32 (s.readReg (.maxBitOf a))
  match performAll (.txn (.regRead (.maxBitOf a)) :: ffs0 a ++ rdRes) s with
  | .next s' => foreachLoop a mb stop ((mb + 2).toNat) s' []
  | .fault _ => ([], s)
  | .refused _ => ([], s)

/-- `GETINDICES vA`: the visited indices, never stopping (30_encoding R88). -/
def getIndices (a : SlotNo) (s : State) : List Int := (foreach a (fun _ => false) s).1

end Sys2Proof.Machine
end

