-- ==== Sys2Proof/WellFormed.lean ====
section
/-! DEFINITION. When a command is legal for an instance: every slot field its format uses names an existing slot
(30_encoding R73, R74 step 1, R76 (d)). -/

namespace Sys2Proof

/-- A slot field is legal when its format does not use it or when it is `< NSLOTS` (30_encoding R73). -/
def slotFieldLegal (p : Config.Params) : Option SlotNo → Bool
  | none => true
  | some f => decide (f.val < p.nslots)

/-- The last check of 30_encoding R74 step 1. The other two checks of that step (a known opcode, the must-be-zero
bits) cannot be failed by a term of `Instr`: the decoder makes them. -/
def WellFormed (p : Config.Params) (i : Instr) : Bool :=
  slotFieldLegal p i.fields.d && slotFieldLegal p i.fields.a && slotFieldLegal p i.fields.b

end Sys2Proof
end

