-- ==== Sys2Proof/Safety.lean ====
section
/-! DEFINITION. The terms the statements use: the invariants the spec states (00_scope R6; 10_state R20, R22, R27;
20_memory R50), the outcomes of a command written out field by field, and the spec's tables of who reads, writes and
raises what (R29, R239). -/

namespace Sys2Proof.Machine

/-! ### Invariants -/

/-- A vector an instance with parameters `p` may hold: its size is as 10_state R22 says, and bit 31 of every word is
0 (10_state R27). Padding is not constrained (R28). -/
abbrev PackedVector.Wf (p : Config.Params) (v : PackedVector) : Prop :=
  v.mb < p.maxcap ∧ v.nwords = v.mb / 31 + 1 ∧ v.words.all (fun x => !x.getLsbD 31) = true

/-- Slot `f` holds nothing, or an allowed vector in a slot that exists (10_state R20, R22, R27). -/
def State.slotWf (s : State) (f : SlotNo) : Bool :=
  match s.slot f with
  | none => true
  | some v => s.hasSlot f && decide (v.Wf s.params)

/-- The text buffer is in its canonical form and inside its `TEXTBYTES` bytes (20_memory R50). -/
abbrev State.TextWf (s : State) : Prop := memoryWf s.text = true ∧ ∀ c ∈ s.text, c.1 < s.params.textbytes

/-- THE INVARIANT between commands: legal parameters (00_scope R6), well-formed slots, a well-formed text buffer. -/
abbrev State.Inv (s : State) : Prop :=
  s.params.Legal ∧ (∀ f : SlotNo, s.slotWf f = true) ∧ s.TextWf

/-- Every vector the state holds is canonical (00_scope R11, 10_state R28). -/
abbrev State.AllCanonical (s : State) : Prop := ∀ f : SlotNo, (s.slot f).all PackedVector.canonical = true

/-- Slot `a` exists and holds the vector `v`: a legal source operand (30_encoding R73, R74 steps 1 and 2). -/
abbrev State.Holds (s : State) (a : SlotNo) (v : PackedVector) : Prop := s.hasSlot a = true ∧ s.slot a = some v

/-! ### Outcomes, field by field -/

/-- `s` after a command that completes with result `r` and writes nothing else (10_state R35, R36). -/
def State.resultIn (s : State) (r : Int) : State :=
  { s with status := { s.status with code := none }, res := BitVec.ofInt 32 r }

/-- `s` after a command that stores the vector `v` in slot `f` and completes with success (10_state R26, R36). -/
def State.storedIn (s : State) (f : SlotNo) (v : PackedVector) : State :=
  { s with slots := s.slots.set f.val (some v) f.isLt, status := { s.status with code := none }, res := 1 }

/-- `s` after a command that raised `e`: `STATUS` and nothing else (60_exceptions R232). -/
def State.raisedIn (s : State) (e : Exc) : State := { s with status := { code := some e, sticky := true } }

/-- `t` is `s` after a command that wrote the text `out`: byte `j` of the buffer is byte `j` of `out`, every later
byte is as before, `TEXTLEN` and `RES` are its length, nothing else changes (44_codec R202). -/
def State.WroteText (s t : State) (out : List Byte) : Prop :=
  (∀ j, t.textByte j = (out[j]?).getD (s.textByte j)) ∧
    t = { s with text := t.text, textlen := BitVec.ofNat 32 out.length, res := BitVec.ofNat 32 out.length,
                 status := { s.status with code := none } }

/-- `t` is `s` after an in-place command on slot `a`, which held `v`: the bit at global index `j` (padding positions
included) has become `g j` of what it was; bit 31 of every word and the vector's size are as before; every other slot
and register is as before, `RES` is 1 (42_mutation R150). -/
def State.MutatedTo (s t : State) (a : SlotNo) (v : PackedVector) (g : Nat → Bool → Bool) : Prop :=
  ∃ v', t = s.storedIn a v' ∧ v'.maxBit = v.maxBit ∧ v'.nwords = v.nwords ∧
    ∀ k < v.nwords, (∀ b < 31, (v'.word k).getLsbD b = g (31 * k + b) ((v.word k).getLsbD b)) ∧
      (v'.word k).getLsbD 31 = (v.word k).getLsbD 31

/-- `t` is `s` with slot `d` holding a vector of `v`'s size whose bit `b` of word `k` is `g k b`, for all 32 bits;
every other slot and register is as before, `RES` is 1 (43_algebra R170, R171). -/
def State.BuiltIn (s t : State) (d : SlotNo) (v : PackedVector) (g : Nat → Nat → Bool) : Prop :=
  ∃ v', t = s.storedIn d v' ∧ v'.maxBit = v.maxBit ∧ v'.nwords = v.nwords ∧
    ∀ k < v.nwords, ∀ b < 32, (v'.word k).getLsbD b = g k b

/-- `r` is the least position with property `P`, or `-1` when none has it (41_bitscan R134, `min {} = -1`). -/
def LeastOrNone (P : Nat → Prop) (r : Int) : Prop :=
  (r = -1 ∧ ∀ j, ¬ P j) ∨ ∃ j : Nat, r = j ∧ P j ∧ ∀ k, P k → j ≤ k

/-- `r` is the greatest position with property `P`, or `-1` when none has it (41_bitscan R134, `max {} = -1`). -/
def GreatestOrNone (P : Nat → Prop) (r : Int) : Prop :=
  (r = -1 ∧ ∀ j, ¬ P j) ∨ ∃ j : Nat, r = j ∧ P j ∧ ∀ k, P k → k ≤ j

/-! ### Text -/

/-- The byte is an ASCII digit (44_codec R200, R222). -/
abbrev isDigit (c : Byte) : Prop := 0x30 ≤ c.toNat ∧ c.toNat ≤ 0x39

/-- The value of a string of decimal digits (44_codec R201, R222). -/
def decimalValue (t : List Byte) : Nat := t.foldl (fun n c => 10 * n + (c.toNat - 0x30)) 0

/-- `t` is a text `number (',' number)*`, a number being one or more digits of value below `2^32`, and `nums` are the
values of its numbers (44_codec R222). -/
def NumberList (t : List Byte) (nums : List Nat) : Prop :=
  ∃ groups : List (List Byte), groups ≠ [] ∧ t = List.intercalate [0x2C] groups ∧
    (∀ g ∈ groups, g ≠ [] ∧ (∀ c ∈ g, isDigit c) ∧ decimalValue g < 2 ^ 32) ∧ nums = groups.map decimalValue

/-! ### The spec's tables -/

end Sys2Proof.Machine

namespace Sys2Proof

/-- The format uses field `D`, `A`, `B` (30_encoding R72). -/
def Format.usesD : Format → Bool
  | .fD | .fDA | .fDAB => true
  | .fA | .fAB => false

@[inherit_doc Format.usesD]
def Format.usesA : Format → Bool
  | .fA | .fAB | .fDA | .fDAB => true
  | .fD => false

@[inherit_doc Format.usesD]
def Format.usesB : Format → Bool
  | .fAB | .fDAB => true
  | .fD | .fA | .fDA => false

end Sys2Proof

namespace Sys2Proof.Machine

/-- A slot field of a legal command word: below `NSLOTS` where the format uses it, 0 where it does not
(30_encoding R76 (c), (d)). -/
abbrev fieldLegal (p : Config.Params) (uses : Bool) (f : SlotNo) : Prop :=
  if uses then f.val < p.nslots else f.val = 0

/-- A legal `CMD` value: none of the four conditions of 30_encoding R76 holds. -/
abbrev LegalCommandWord (p : Config.Params) (x : Word) : Prop :=
  ∃ r ∈ opcodeMap, r.opcode = opcodeField x ∧ x.extractLsb' 20 12 = 0 ∧
    fieldLegal p r.format.usesD (fieldD x) ∧ fieldLegal p r.format.usesA (fieldA x) ∧
    fieldLegal p r.format.usesB (fieldB x)

/-- The commands with one index operand, `idx = s32(ARG0)` (60_exceptions R233). -/
def takesIndex : Instr → Bool
  | .i2w _ | .get _ | .set _ | .unset _ | .toggle _ | .nextset _ | .nextunset _ | .prevset _ | .prevunset _
  | .andi _ _ | .ori _ _ | .xori _ _ => true
  | _ => false

/-- The range commands (60_exceptions R233). -/
def takesRange : Instr → Bool
  | .setrange _ | .unsetrange _ | .togglerange _ => true
  | _ => false

/-- The commands whose operand is a word number (41_bitscan R125). -/
def takesFromWord : Instr → Bool
  | .ffs _ | .ffz _ | .fls _ | .flz _ => true
  | _ => false

/-- The commands that check the capacities of two vectors (60_exceptions R234). -/
def checksCapacity : Instr → Bool
  | .and _ _ _ | .or _ _ _ | .xor _ _ _ | .isequal _ _ | .issubset _ _ => true
  | _ => false

/-- The slot a command writes (10_state R29): `D` where it creates a vector, `A` where it works in place. -/
def writtenSlot : Instr → Option SlotNo
  | .new d | .rehyd d | .clone d _ | .andi d _ | .ori d _ | .xori d _ | .and d _ _ | .or d _ _ | .xor d _ _ => some d
  | .set a | .unset a | .toggle a | .setrange a | .unsetrange a | .togglerange a | .clear a => some a
  | _ => none

/-- The commands that write the text buffer (10_state R34, R39). -/
def writesText : Instr → Bool
  | .dehyd _ | .tostr _ => true
  | _ => false

/-- Which exceptions a command can raise (60_exceptions R239). -/
def mayRaise (i : Instr) : List Exc :=
  match i with
  | .new _ => [.illegalCommand, .badCapacity]
  | .rehyd _ => [.illegalCommand, .malformedEncoding, .badCapacity]
  | _ =>
    if takesIndex i || takesRange i then [.illegalCommand, .slotInvalid, .indexOutOfRange]
    else if checksCapacity i then [.illegalCommand, .slotInvalid, .capacityMismatch]
    else [.illegalCommand, .slotInvalid]

/-- The slot fields of a vector that whether a command raises can depend on (60_exceptions R240): `valid`, `maxBit`
and `nwords`. -/
def State.shape (s : State) (f : SlotNo) : Option (Word × Nat) := (s.slot f).map fun v => (v.maxBit, v.nwords)

end Sys2Proof.Machine
end

