-- ==== Sys2Proof/Certificates/Slice0/Obligations.lean ====
section
/-! DEFINITION. The statements for the provers, rule by rule. The outcomes `resultIn`, `storedIn`, `raisedIn`,
`WroteText`, `MutatedTo` and `BuiltIn` of `Sys2Proof/Safety.lean` write out the whole next state, so that each
statement about a command is its result, its frame and its completion at once. -/

open Sys2Proof Sys2Proof.Machine

/-! ### Encoding -/

/-- Words written out from 30_encoding R71 and R80 decode to the commands they stand for. -/
def Obligations.DecodeReadsTheSpecsWords : Prop :=
  decode 0x00000010 = .ok (.new 0) ∧ decode 0x00000034 = .ok (.setrange 0) ∧
    decode 0x00010240 = .ok (.and 2 0 1) ∧ decode 0x0001304B = .ok (.issubset 3 1) ∧
    decode 0x00001048 = .ok (.card 1) ∧ decode 0x00000151 = .ok (.rehyd 1) ∧ decode 0x00000024 = .ok (.nextset 0)

/-- Decoding an encoded command gives it back, for every command and every slot number (R71, R72, R75, R80). -/
def Obligations.DecodeOfEncode : Prop := ∀ i : Instr, decode (encode i) = .ok i

/-- A word that decodes is the encoding of what it decodes to: no bit of a legal word is dropped (R71, R72, R75). -/
def Obligations.EncodeOfDecode : Prop := ∀ (x : Word) (i : Instr), decode x = .ok i → encode i = x

/-- 30_encoding R76: writing an illegal value to `CMD` raises `IllegalCommand`, with no other effect (60 R232: `CMD`
keeps the value just written). -/
def Obligations.IllegalCommandWordRaises : Prop :=
  ∀ (s : State) (x : Word) (rest : List Input), s.pending = .txn (.regWrite .cmd x) :: rest →
    ¬ LegalCommandWord s.params x →
    step s = .next ({ s with pending := rest, cmd := x }.raisedIn .illegalCommand)

/-! ### Steps and host transactions -/

/-- A step performs the first input to come, whatever it is, in the state that has consumed it: a host transaction
(20_memory R52, R60; 70_reset R274), an access of the default binding (R55), the reset (70_reset R260). In particular
a `CMD` write whose value decodes to a command runs that command, in the state that has stored the value (10_state R33,
30_encoding R74). That the inputs to come stand in `pending` is the model's choice (assumption 4). -/
def Obligations.StepRunsDecodedCommand : Prop :=
  ∀ (s : State) (rest : List Input),
    (∀ i, s.pending = i :: rest → step s = perform i { s with pending := rest }) ∧
    (∀ t, s.pending = .txn t :: rest → step s = performTxn t { s with pending := rest }) ∧
    (∀ a, s.pending = .bus a :: rest → step s = performBus a { s with pending := rest }) ∧
    (s.pending = .reset :: rest → step s = .next ({ s with pending := rest } : State).applyReset) ∧
    ∀ (x : Word) (i : Instr), s.pending = .txn (.regWrite .cmd x) :: rest → decode x = .ok i →
      step s = exec i { s with pending := rest, cmd := x }

/-- With no transaction left the engine holds its state (R255, R261, R274; the model's choice of assumption 5). -/
def Obligations.IdleEngineHoldsItsState : Prop := ∀ s : State, s.pending = [] → step s = .next s

/-- The register transactions but for a `CMD` or `STATUS` write (20_memory R52): a read returns the register and
changes nothing (what `CMD`, `ARG0`, `ARG1`, `RES`, `TEXTLEN` hold is what they read, 10_state R32, R33, R34, R36),
`ARG0`, `ARG1` and `TEXTLEN` are stored, the read-only registers ignore the write. -/
def Obligations.RegisterTransactions : Prop :=
  ∀ (s : State) (x : Word) (r : Reg),
    performTxn (.regRead r) s = .next { s with observed := s.observed ++ [.word (s.readReg r)] } ∧
    s.readReg .cmd = s.cmd ∧ s.readReg .arg0 = s.arg0 ∧ s.readReg .arg1 = s.arg1 ∧ s.readReg .res = s.res ∧
    s.readReg .textlen = s.textlen ∧
    performTxn (.regWrite .arg0 x) s = .next { s with arg0 := x } ∧
    performTxn (.regWrite .arg1 x) s = .next { s with arg1 := x } ∧
    performTxn (.regWrite .textlen x) s = .next { s with textlen := x } ∧
    (r ∉ [.cmd, .arg0, .arg1, .status, .textlen] → performTxn (.regWrite r x) s = .next s)

/-- 10_state R37: what the information registers read. -/
def Obligations.InformationRegisters : Prop :=
  ∀ s : State, s.params.Legal →
    (∀ f : SlotNo, (s.readReg .valid).getLsbD f.val = (decide (f.val < s.params.nslots) && (s.slot f).isSome)) ∧
    (∀ k, s.params.nslots ≤ k → (s.readReg .valid).getLsbD k = false) ∧
    (∀ f : SlotNo, f.val < s.params.nslots →
      (s.slot f = none → s.readReg (.maxBitOf f) = 0xFFFFFFFF ∧ s.readReg (.nwordsOf f) = 0) ∧
      (∀ v, s.slot f = some v → s.readReg (.maxBitOf f) = v.maxBit ∧
        s.readReg (.nwordsOf f) = BitVec.ofNat 32 v.nwords)) ∧
    (s.readReg .nslotsR).toNat = s.params.nslots ∧ (s.readReg .maxwordsR).toNat = s.params.maxwords ∧
    (s.readReg .textbytesR).toNat = s.params.textbytes

/-- 10_state R35, host side: the layout of `STATUS`, and a host write: bit 8 set clears `STICKY`, every other bit is
ignored, `CODE` does not change. -/
def Obligations.StatusLayoutAndWriteOneToClear : Prop :=
  ∀ (s : State) (x : Word),
    ((s.readReg .status).toNat % 16 = ((s.status.code.map Exc.code).getD 0) ∧
      (s.readReg .status).getLsbD 8 = s.status.sticky ∧
      ∀ k, (4 ≤ k ∧ k ≤ 7) ∨ 9 ≤ k → (s.readReg .status).getLsbD k = false) ∧
    ∃ t, performTxn (.regWrite .status x) s = .next t ∧ t = { s with status := t.status } ∧
      ∀ k, (t.readReg .status).getLsbD k =
        if k = 8 then (s.readReg .status).getLsbD 8 && !x.getLsbD 8 else (s.readReg .status).getLsbD k

/-- 20_memory R52, text side: a `TextWrite` inside the buffer changes that byte and no other, one outside changes
nothing; a `TextRead` returns the byte, 0 outside, and changes nothing. -/
def Obligations.TextTransactions : Prop :=
  ∀ (s : State) (i : Nat) (b : Byte),
    (i < s.params.textbytes →
      (∃ t, performTxn (.textWrite i b) s = .next t ∧ t = { s with text := t.text } ∧
        ∀ j, t.textByte j = if j = i then b else s.textByte j) ∧
      performTxn (.textRead i) s = .next { s with observed := s.observed ++ [.byte (s.textByte i)] }) ∧
    (s.params.textbytes ≤ i →
      performTxn (.textWrite i b) s = .next s ∧
      performTxn (.textRead i) s = .next { s with observed := s.observed ++ [.byte 0] })

/-- 60_exceptions R241: no host transaction but a `CMD` write can raise; none of them touches a slot, `RES`, `CMD` or
`STATUS.CODE`, or sets `STICKY`. -/
def Obligations.OnlyCommandWritesRaise : Prop :=
  ∀ (t : Txn) (s : State), (∀ x, t ≠ .regWrite .cmd x) →
    ∃ s', performTxn t s = .next s' ∧ s'.status.code = s.status.code ∧
      (s'.status.sticky = true → s.status.sticky = true) ∧ s'.slots = s.slots ∧ s'.res = s.res ∧ s'.cmd = s.cmd

/-- The default binding, registers (20_memory R55, R58): a 32-bit access at a register's offset is that register's
transaction; every other access, of any width and at any offset, that touches one of the register's four bytes is no
transaction. That such a read leaves no reading, and that an access which only runs into a register is refused as a
whole, is the model's choice (assumption 8). -/
def Obligations.BusRegisterAccesses : Prop :=
  ∀ (s : State) (x : Word) (f : SlotNo),
    (∀ c ∈ [((0x000 : Nat), Reg.cmd), (0x004, .arg0), (0x008, .arg1), (0x00C, .status), (0x010, .res),
        (0x014, .textlen), (0x018, .valid), (0x020, .nslotsR), (0x024, .maxwordsR), (0x028, .textbytesR)] ++
        (if f.val < s.params.nslots then [(0x040 + 8 * f.val, .maxBitOf f), (0x044 + 8 * f.val, .nwordsOf f)] else []),
      performBus (.read .word c.1) s = performTxn (.regRead c.2) s ∧
      performBus (.write .word c.1 x) s = performTxn (.regWrite c.2 x) s ∧
      ∀ (w : BusWidth) (o : Nat), o < c.1 + 4 → c.1 < o + w.bytes → ¬ (w = .word ∧ o = c.1) →
        performBus (.read w o) s = .next s ∧ performBus (.write w o x) s = .next s)

/-- The default binding, text window (20_memory R54, R55, R58): an access of 1, 2 or 4 bytes at `0x1000 + i`, at any
address, is as many byte transactions in ascending address order: a read observes each byte (70_reset R274) and shows
the host a word with the byte at the lowest address in bits 7:0, a write stores the bytes so; bytes outside the buffer
read 0 and ignore writes. Two clauses are the model's choice: that an access across the end of the buffer does its
bytes one by one (assumption 8), and that an 8- or 16-bit access has its data in the low bits of the bus word, the
upper bits reading 0 and being ignored by a write (assumption 23). -/
def Obligations.BusTextWindowIsLittleEndian : Prop :=
  ∀ (s : State) (w : BusWidth) (i : Nat) (x : Word),
    performBus (.read w (0x1000 + i)) s =
      .next { s with observed := s.observed ++ (List.range w.bytes).map fun k => .byte (s.hostTextRead (i + k)) } ∧
    (∀ k < 4, (s.busWord w (0x1000 + i)).extractLsb' (8 * k) 8 =
      if k < w.bytes then s.hostTextRead (i + k) else 0) ∧
    ∃ t, performBus (.write w (0x1000 + i) x) s = .next t ∧ t = { s with text := t.text } ∧
      ∀ j, t.hostTextRead j =
        if i ≤ j ∧ j < i + w.bytes ∧ j < s.params.textbytes then x.extractLsb' (8 * (j - i)) 8 else s.hostTextRead j

/-- The default binding, holes (20_memory R58): an access of 1, 2 or 4 bytes, all below the text window and none in a
register's place, reads 0 and ignores writes. Two clauses are the model's choice: that such a read is recorded as one
byte of 0 for each byte (assumption 6), and that the bus word of an 8- or 16-bit read is 0 above its data too
(assumption 23). -/
def Obligations.BusHolesReadZero : Prop :=
  ∀ (s : State) (w : BusWidth) (o : Nat) (x : Word),
    (∀ k < w.bytes, (0x01C ≤ o + k ∧ o + k < 0x020) ∨ (0x02C ≤ o + k ∧ o + k < 0x040) ∨
      (0x040 + 8 * s.params.nslots ≤ o + k ∧ o + k < 0x1000)) →
    performBus (.read w o) s = .next { s with observed := s.observed ++ List.replicate w.bytes (.byte 0) } ∧
      s.busWord w o = 0 ∧ performBus (.write w o x) s = .next s

/-- The macro `TEXT` (30_encoding R86): the buffer begins with the characters, `TEXTLEN` is their count, nothing else
changes. -/
def Obligations.TextMacroLoadsTheBuffer : Prop :=
  ∀ (s : State) (cs : List Byte), cs.length ≤ s.params.textbytes →
    ∃ t, performAll (textMacro cs) s = .next t ∧
      t = { s with text := t.text, textlen := BitVec.ofNat 32 cs.length } ∧
      ∀ j, t.textByte j = (cs[j]?).getD (s.textByte j)

/-! ### Reset and the invariant -/

/-- 10_state R42: every piece of state at its reset value, for every choice of parameters. -/
def Obligations.ResetValues : Prop :=
  ∀ (p : Config.Params) (f : SlotNo),
    let s := State.resetOf p
    s.slot f = none ∧ s.arg0 = 0 ∧ s.arg1 = 0 ∧ s.cmd = 0 ∧ s.readReg .status = 0 ∧ s.res = 0 ∧ s.textlen = 0 ∧
      s.readReg .valid = 0 ∧ (f.val < p.nslots → s.readReg (.maxBitOf f) = 0xFFFFFFFF ∧ s.readReg (.nwordsOf f) = 0) ∧
      (∀ i, memoryRead s.text i = none) ∧ s.params = p

/-- 70_reset R260: the external reset, in any state, invalidates every slot and clears the registers; no text byte
written before it is left; the parameters are constants (R42). That the inputs to come and the values read stay is the
model's choice (assumption 7). -/
def Obligations.ExternalResetClearsTheBlock : Prop :=
  ∀ (s : State) (rest : List Input), s.pending = .reset :: rest →
    ∃ t, step s = .next t ∧ (∀ f, t.slot f = none) ∧ t.arg0 = 0 ∧ t.arg1 = 0 ∧ t.cmd = 0 ∧
      t.status = ⟨none, false⟩ ∧ t.res = 0 ∧ t.textlen = 0 ∧ (∀ i, memoryRead t.text i = none) ∧
      t.params = s.params ∧ t.pending = rest ∧ t.observed = s.observed

/-- The reset state of every legal instance has the invariant (00_scope R6; 10_state R20, R22, R27). -/
def Obligations.ResetHasInvariant : Prop :=
  State.reset.Inv ∧ ∀ p : Config.Params, p.Legal → (State.resetOf p).Inv

/-- THE INVARIANT: from every state that has it, a step gives a state that has it. Legal parameters, the vector sizes of
10_state R22, bit 31 of every word clear (R27), vectors only in slots that exist, the text buffer canonical and inside
its bytes. -/
def Obligations.StepKeepsInvariant : Prop :=
  ∀ s s' : State, s.Inv → step s = .next s' → s'.Inv

/-- No step stops: every command ends, in completion or in an exception (20_memory R53, 60_exceptions R232). That
nothing else stops the machine is the model's deduction (assumption 19), and that a step with no input pending answers
the same state is its choice (assumption 5). -/
def Obligations.EveryStepAnswersNext : Prop := ∀ s : State, ∃ s', step s = .next s'

/-- A vector leaves a slot only by reset: no other input makes a valid slot invalid (10_state R21). -/
def Obligations.ValidSlotsStayValid : Prop :=
  ∀ (s s' : State) (f : SlotNo), s.pending.head? ≠ some .reset → step s = .next s' → (s.slot f).isSome = true →
    (s'.slot f).isSome = true

/-- A command without a destination field leaves the size of every vector as it was (10_state R25). -/
def Obligations.CapacityIsFixed : Prop :=
  ∀ (i : Instr) (s s' : State) (f : SlotNo) (v : PackedVector), i.fields.d = none → exec i s = .next s' →
    s.slot f = some v → ∃ v', s'.slot f = some v' ∧ v'.maxBit = v.maxBit ∧ v'.nwords = v.nwords

/-- 10_state R28: a command that is no `REHYD` and no algebra command on different capacities keeps every vector
canonical. -/
def Obligations.CanonicalVectorsStayCanonical : Prop :=
  ∀ (i : Instr) (s s' : State), s.Inv → s.AllCanonical → (∀ d, i ≠ .rehyd d) →
    (∀ d a b v u, i = .and d a b ∨ i = .or d a b ∨ i = .xor d a b → s.slot a = some v → s.slot b = some u →
      v.maxBit = u.maxBit) →
    exec i s = .next s' → s'.AllCanonical

/-! ### Exceptions -/

/-- 60_exceptions R232: a command that raises sets `STATUS.CODE` and `STATUS.STICKY` and changes nothing else; after a
`CMD` write that raises, `CMD` keeps the value just written, whether the word is illegal or its command raises. -/
def Obligations.ExceptionChangesOnlyStatus : Prop :=
  (∀ (i : Instr) (s s' : State) (e : Exc), exec i s = .next s' → s'.status.code = some e → s' = s.raisedIn e) ∧
  ∀ (x : Word) (s s' : State) (e : Exc), performTxn (.regWrite .cmd x) s = .next s' → s'.status.code = some e →
    s' = ({ s with cmd := x } : State).raisedIn e

/-- The frame of every command that completes (10_state R26, R29, R32, R35): `STICKY`, `ARG0`, `ARG1`, `CMD` are as
before, no slot changes but the one it writes, and only `DEHYD` and `TOSTR` change the text buffer and `TEXTLEN`. -/
def Obligations.CompletingCommandFrame : Prop :=
  ∀ (i : Instr) (s s' : State), exec i s = .next s' → s'.status.code = none →
    s'.status.sticky = s.status.sticky ∧ s'.arg0 = s.arg0 ∧ s'.arg1 = s.arg1 ∧ s'.cmd = s.cmd ∧
      s'.params = s.params ∧ s'.pending = s.pending ∧ s'.observed = s.observed ∧
      (∀ f, writtenSlot i ≠ some f → s'.slot f = s.slot f) ∧
      (writesText i = false → s'.textlen = s.textlen ∧ ∀ j, s'.textByte j = s.textByte j)

/-- A used slot field `>= NSLOTS` raises `IllegalCommand`, before any other check (30_encoding R74 step 1, R76). -/
def Obligations.MissingSlotIsIllegal : Prop :=
  ∀ (i : Instr) (s : State), WellFormed s.params i = false → exec i s = .next (s.raisedIn .illegalCommand)

/-- 60_exceptions R238: an invalid source slot raises `SlotInvalid`, before the command's own checks; the destination
is never checked. -/
def Obligations.InvalidSourceRaises : Prop :=
  ∀ (i : Instr) (s : State), WellFormed s.params i = true →
    ((∃ f, (i.fields.a = some f ∨ i.fields.b = some f) ∧ s.slot f = none) →
      exec i s = .next (s.raisedIn .slotInvalid)) ∧
    ((∀ f, i.fields.a = some f ∨ i.fields.b = some f → s.slot f ≠ none) →
      ∀ s', exec i s = .next s' → s'.status.code ≠ some .slotInvalid)

/-- 60_exceptions R233: an index outside `0 .. maxBit` of slot `A` raises `IndexOutOfRange`, one inside completes; the
range commands check the smaller and the larger argument; a word number is never refused. -/
def Obligations.IndexOutOfRangeRaises : Prop :=
  ∀ (i : Instr) (s : State) (a : SlotNo) (v : PackedVector), WellFormed s.params i = true →
    i.fields.a = some a → s.slot a = some v →
    (takesIndex i = true → (s.arg0.toInt < 0 ∨ (v.mb : Int) < s.arg0.toInt) →
      exec i s = .next (s.raisedIn .indexOutOfRange)) ∧
    (takesIndex i = true → 0 ≤ s.arg0.toInt → s.arg0.toInt ≤ v.mb →
      ∃ s', exec i s = .next s' ∧ s'.status.code = none) ∧
    (takesRange i = true →
      (min s.arg0.toInt s.arg1.toInt < 0 ∨ (v.mb : Int) < max s.arg0.toInt s.arg1.toInt) →
      exec i s = .next (s.raisedIn .indexOutOfRange)) ∧
    (takesRange i = true → 0 ≤ min s.arg0.toInt s.arg1.toInt → max s.arg0.toInt s.arg1.toInt ≤ v.mb →
      ∃ s', exec i s = .next s' ∧ s'.status.code = none) ∧
    (takesFromWord i = true → ∃ r, exec i s = .next (s.resultIn r))

/-- 60_exceptions R234: the binary commands raise `CapacityMismatch` exactly when the word counts differ, whatever the
capacities; the index forms never raise it. -/
def Obligations.CapacityMismatchRaises : Prop :=
  (∀ (i : Instr) (s : State) (a b : SlotNo) (v u : PackedVector), WellFormed s.params i = true →
    checksCapacity i = true → i.fields.a = some a → i.fields.b = some b → s.slot a = some v → s.slot b = some u →
    (v.nwords ≠ u.nwords → exec i s = .next (s.raisedIn .capacityMismatch)) ∧
    (v.nwords = u.nwords → ∃ s', exec i s = .next s' ∧ s'.status.code = none)) ∧
  ∀ (d a : SlotNo) (s s' : State), exec (.andi d a) s = .next s' ∨ exec (.ori d a) s = .next s' ∨
    exec (.xori d a) s = .next s' → s'.status.code ≠ some .capacityMismatch

/-- 60_exceptions R239: no command raises an exception the table does not give it. -/
def Obligations.ExceptionsPerCommand : Prop :=
  ∀ (i : Instr) (s s' : State) (e : Exc), exec i s = .next s' → s'.status.code = some e → e ∈ mayRaise i

/-- 60_exceptions R240: whether a `CMD` write raises, and which code, is a function of the word, `ARG0`, `ARG1`,
`TEXTLEN`, the text bytes below it, the parameters, and `valid`, `maxBit`, `nwords` of the source slots it names; word
contents, `STATUS`, `RES` and history do not matter. A command that raised, issued again, raises the same code. -/
def Obligations.RaisingIsAFunctionOfInput : Prop :=
  (∀ (s t s' t' : State) (x : Word) (rest rest' : List Input),
    s.pending = .txn (.regWrite .cmd x) :: rest → t.pending = .txn (.regWrite .cmd x) :: rest' →
    s.params = t.params → s.arg0 = t.arg0 → s.arg1 = t.arg1 → s.textlen = t.textlen →
    (∀ i < s.textlen.toNat, s.textByte i = t.textByte i) →
    (∀ i f, decode x = .ok i → (i.fields.a = some f ∨ i.fields.b = some f) → s.shape f = t.shape f) →
    step s = .next s' → step t = .next t' → s'.status.code = t'.status.code) ∧
  ∀ (s s' : State) (x : Word) (rest : List Input) (e : Exc),
    s.pending = .txn (.regWrite .cmd x) :: .txn (.regWrite .cmd x) :: rest → step s = .next s' →
    s'.status.code = some e → ∃ s'', step s' = .next s'' ∧ s''.status.code = some e

/-! ### Storage and indexing -/

/-- 40_storage R102: `NEW` makes the all-zero vector of the requested capacity, 31 for 0, and refuses a negative or
too large one. -/
def Obligations.NewMakesZeroVector : Prop :=
  ∀ (d : SlotNo) (s : State) (n : Int), s.hasSlot d = true →
    n = (if s.arg0.toInt = 0 then 31 else s.arg0.toInt) →
    (n < 0 ∨ (s.params.maxcap : Int) < n → exec (.new d) s = .next (s.raisedIn .badCapacity)) ∧
    (0 ≤ n → n ≤ s.params.maxcap →
      ∃ v, exec (.new d) s = .next (s.storedIn d v) ∧ (v.mb : Int) = n - 1 ∧ v.nwords = (n.toNat + 30) / 31 ∧
        ∀ w ∈ v.words, w = 0)

/-- 40_storage R104, R105: `I2W` returns the word index, `GET` the bit, of an index in range; both raise outside. -/
def Obligations.IndexToWordAndGet : Prop :=
  ∀ (a : SlotNo) (s : State) (v : PackedVector), s.Holds a v →
    (0 ≤ s.arg0.toInt → s.arg0.toInt ≤ v.mb →
      exec (.i2w a) s = .next (s.resultIn (s.arg0.toInt / 31)) ∧
      exec (.get a) s = .next (s.resultIn (if v.bit s.arg0.toInt.toNat then 1 else 0))) ∧
    (s.arg0.toInt < 0 ∨ (v.mb : Int) < s.arg0.toInt →
      exec (.i2w a) s = .next (s.raisedIn .indexOutOfRange) ∧
      exec (.get a) s = .next (s.raisedIn .indexOutOfRange))

/-! ### Scans (41_bitscan R134) -/

/-- The word unit's De Bruijn mechanisms compute the least and the greatest set bit of every non-zero word
(41_bitscan R120 to R123). -/
def Obligations.DeBruijnLookupFindsTheBit : Prop :=
  ∀ x : Word, x ≠ 0 → lsbDeBruijn x = lsb x ∧ msbDeBruijn x = msb x

/-- `FFS` and `FFZ`: the least set, unset, index from the start of word `fromWord`, up to `maxBit`. -/
def Obligations.UpwardScansFindTheLeast : Prop :=
  ∀ (a : SlotNo) (s : State) (v : PackedVector), s.Holds a v → v.Wf s.params →
    (∃ r, exec (.ffs a) s = .next (s.resultIn r) ∧
      LeastOrNone (fun j => 31 * max s.arg0.toInt 0 ≤ j ∧ j ≤ v.mb ∧ v.bit j = true) r) ∧
    (∃ r, exec (.ffz a) s = .next (s.resultIn r) ∧
      LeastOrNone (fun j => 31 * max s.arg0.toInt 0 ≤ j ∧ j ≤ v.mb ∧ v.bit j = false) r)

/-- `FLS` and `FLZ`: the greatest set index to the end of word `fromWord`, padding included; the greatest unset one,
never padding. -/
def Obligations.DownwardScansFindTheGreatest : Prop :=
  ∀ (a : SlotNo) (s : State) (v : PackedVector), s.Holds a v → v.Wf s.params →
    (∃ r, exec (.fls a) s = .next (s.resultIn r) ∧
      GreatestOrNone (fun j => (j : Int) ≤ 31 * min s.arg0.toInt ((v.nwords : Int) - 1) + 30 ∧ v.bit j = true) r) ∧
    (∃ r, exec (.flz a) s = .next (s.resultIn r) ∧
      GreatestOrNone (fun j => (j : Int) ≤ 31 * min s.arg0.toInt ((v.nwords : Int) - 1) + 30 ∧ j ≤ v.mb ∧
        v.bit j = false) r)

/-- `NEXTSET` and `NEXTUNSET`: the least set, unset, index from `idx` to `maxBit`, `idx` itself included. -/
def Obligations.NextScansFindTheLeast : Prop :=
  ∀ (a : SlotNo) (s : State) (v : PackedVector), s.Holds a v → v.Wf s.params →
    0 ≤ s.arg0.toInt → s.arg0.toInt ≤ v.mb →
    (∃ r, exec (.nextset a) s = .next (s.resultIn r) ∧
      LeastOrNone (fun j => s.arg0.toInt ≤ j ∧ j ≤ v.mb ∧ v.bit j = true) r) ∧
    (∃ r, exec (.nextunset a) s = .next (s.resultIn r) ∧
      LeastOrNone (fun j => s.arg0.toInt ≤ j ∧ j ≤ v.mb ∧ v.bit j = false) r)

/-- `PREVSET` and `PREVUNSET`: the greatest set, unset, index from 0 to `idx`, `idx` itself included. -/
def Obligations.PreviousScansFindTheGreatest : Prop :=
  ∀ (a : SlotNo) (s : State) (v : PackedVector), s.Holds a v → v.Wf s.params →
    0 ≤ s.arg0.toInt → s.arg0.toInt ≤ v.mb →
    (∃ r, exec (.prevset a) s = .next (s.resultIn r) ∧
      GreatestOrNone (fun j => (j : Int) ≤ s.arg0.toInt ∧ v.bit j = true) r) ∧
    (∃ r, exec (.prevunset a) s = .next (s.resultIn r) ∧
      GreatestOrNone (fun j => (j : Int) ≤ s.arg0.toInt ∧ v.bit j = false) r)

/-- `FOREACH` and `GETINDICES` (30_encoding R88): the visited indices are the set indices `0 .. maxBit`, ascending,
whatever the padding. The loop's fuel is the model's (assumption 16). -/
def Obligations.GetIndicesListsTheSetIndices : Prop :=
  ∀ (a : SlotNo) (s : State) (v : PackedVector), s.params.Legal → s.Holds a v → v.Wf s.params →
    getIndices a s = ((List.range (v.mb + 1)).filter v.bit).map Int.ofNat

/-! ### Mutation -/

/-- 42_mutation R150 to R154: `SET`, `UNSET`, `TOGGLE` set, clear, invert bit `idx`, and no other bit. -/
def Obligations.PointMutatorsChangeOneBit : Prop :=
  ∀ (a : SlotNo) (s : State) (v : PackedVector), s.Holds a v → 0 ≤ s.arg0.toInt → s.arg0.toInt ≤ v.mb →
    (∃ t, exec (.set a) s = .next t ∧
      s.MutatedTo t a v fun j x => if (j : Int) = s.arg0.toInt then true else x) ∧
    (∃ t, exec (.unset a) s = .next t ∧
      s.MutatedTo t a v fun j x => if (j : Int) = s.arg0.toInt then false else x) ∧
    (∃ t, exec (.toggle a) s = .next t ∧
      s.MutatedTo t a v fun j x => if (j : Int) = s.arg0.toInt then !x else x)

/-- 42_mutation R156 to R160: the range commands set, clear, invert every bit from the smaller to the larger argument,
both included, and no other bit: padding and bit 31 stay. -/
def Obligations.RangeMutatorsChangeTheRange : Prop :=
  ∀ (a : SlotNo) (s : State) (v : PackedVector) (lo hi : Int), s.Holds a v →
    lo = min s.arg0.toInt s.arg1.toInt → hi = max s.arg0.toInt s.arg1.toInt → 0 ≤ lo → hi ≤ v.mb →
    (∃ t, exec (.setrange a) s = .next t ∧
      s.MutatedTo t a v fun j x => if lo ≤ j ∧ (j : Int) ≤ hi then true else x) ∧
    (∃ t, exec (.unsetrange a) s = .next t ∧
      s.MutatedTo t a v fun j x => if lo ≤ j ∧ (j : Int) ≤ hi then false else x) ∧
    (∃ t, exec (.togglerange a) s = .next t ∧
      s.MutatedTo t a v fun j x => if lo ≤ j ∧ (j : Int) ≤ hi then !x else x)

/-- 42_mutation R154, R160: `TOGGLE`, with its index in range, and `TOGGLERANGE`, with both ends in range, complete
when applied twice, and leave every slot, register and byte as it was, but for `RES` and `CODE`. -/
def Obligations.TogglingTwiceRestores : Prop :=
  ∀ (a : SlotNo) (s : State) (v : PackedVector), s.Holds a v →
    (0 ≤ s.arg0.toInt → s.arg0.toInt ≤ v.mb →
      ∃ t u, exec (.toggle a) s = .next t ∧ t.status.code = none ∧ exec (.toggle a) t = .next u ∧
        u.status.code = none ∧ u.slots = s.slots ∧ u = s.storedIn a v) ∧
    (0 ≤ min s.arg0.toInt s.arg1.toInt → max s.arg0.toInt s.arg1.toInt ≤ v.mb →
      ∃ t u, exec (.togglerange a) s = .next t ∧ t.status.code = none ∧ exec (.togglerange a) t = .next u ∧
        u.status.code = none ∧ u.slots = s.slots ∧ u = s.storedIn a v)

/-- 42_mutation R158: a range command with its arguments exchanged does the same to the slots, and `SETRANGE` of one
index is `SET`. -/
def Obligations.RangeIsOrderIndependent : Prop :=
  ∀ (a : SlotNo) (s : State),
    (∀ i t u, i = .setrange a ∨ i = .unsetrange a ∨ i = .togglerange a → exec i s = .next t →
      exec i { s with arg0 := s.arg1, arg1 := s.arg0 } = .next u →
      t.slots = u.slots ∧ t.status = u.status ∧ t.res = u.res) ∧
    (s.arg0 = s.arg1 → exec (.setrange a) s = exec (.set a) s)

/-- 42_mutation R162 to R164: `CLEAR` zeroes every word, padding included; `CLONE` makes an equal vector in slot `D`
and leaves slot `A`; onto itself it changes no slot. -/
def Obligations.ClearAndClone : Prop :=
  ∀ (d a : SlotNo) (s : State) (v : PackedVector), s.Holds a v →
    (∃ v', exec (.clear a) s = .next (s.storedIn a v') ∧ v'.maxBit = v.maxBit ∧ v'.nwords = v.nwords ∧
      ∀ w ∈ v'.words, w = 0) ∧
    (s.hasSlot d = true → exec (.clone d a) s = .next (s.storedIn d v)) ∧
    (s.storedIn a v).slots = s.slots

/-! ### Algebra -/

/-- 43_algebra R170 to R175: `AND`, `OR`, `XOR` combine the operands bit by bit, all 32 bits of every word, into a
vector of `A`'s size in slot `D`; every other slot stays, also when `D` is an operand. -/
def Obligations.AlgebraCombinesBitwise : Prop :=
  ∀ (d a b : SlotNo) (s : State) (v u : PackedVector), s.hasSlot d = true → s.Holds a v → s.Holds b u →
    v.nwords = u.nwords →
    (∃ t, exec (.and d a b) s = .next t ∧
      s.BuiltIn t d v fun k i => (v.word k).getLsbD i && (u.word k).getLsbD i) ∧
    (∃ t, exec (.or d a b) s = .next t ∧
      s.BuiltIn t d v fun k i => (v.word k).getLsbD i || (u.word k).getLsbD i) ∧
    (∃ t, exec (.xor d a b) s = .next t ∧
      s.BuiltIn t d v fun k i => (v.word k).getLsbD i ^^ (u.word k).getLsbD i)

/-- 43_algebra R177 to R180: `ANDI`, `ORI`, `XORI` combine `A` with the vector that has only bit `idx`. -/
def Obligations.IndexFormsCombineWithOneHot : Prop :=
  ∀ (d a : SlotNo) (s : State) (v : PackedVector) (hot : Nat → Nat → Bool), s.hasSlot d = true → s.Holds a v →
    0 ≤ s.arg0.toInt → s.arg0.toInt ≤ v.mb →
    (hot = fun k i => decide (i < 31 ∧ ((31 * k + i : Nat) : Int) = s.arg0.toInt)) →
    (∃ t, exec (.andi d a) s = .next t ∧ s.BuiltIn t d v fun k i => (v.word k).getLsbD i && hot k i) ∧
    (∃ t, exec (.ori d a) s = .next t ∧ s.BuiltIn t d v fun k i => (v.word k).getLsbD i || hot k i) ∧
    (∃ t, exec (.xori d a) s = .next t ∧ s.BuiltIn t d v fun k i => (v.word k).getLsbD i ^^ hot k i)

/-- 43_algebra R181: on the result words, `AND`, `OR`, `XOR` commute and associate; `AND` with itself copies, `XOR`
with itself gives zeros, `OR` with an all-zero vector copies. -/
def Obligations.AlgebraLaws : Prop :=
  ∀ (d e a b c : SlotNo) (s : State) (v u w : PackedVector), s.hasSlot d = true → s.hasSlot e = true →
    s.Holds a v → s.Holds b u → s.Holds c w → v.nwords = u.nwords → u.nwords = w.nwords →
    d ≠ a → d ≠ b → d ≠ c → e ≠ a → e ≠ b → e ≠ c →
    (∀ op ∈ [Instr.and, Instr.or, Instr.xor], ∃ t1 t2 t3 t4 x1 x2 x3 x4,
      exec (op d a b) s = .next t1 ∧ exec (op e b a) s = .next t2 ∧
      t1.slot d = some x1 ∧ t2.slot e = some x2 ∧ x1.words = x2.words ∧
      exec (op d d c) t1 = .next t3 ∧ t3.slot d = some x3 ∧
      (∃ t, exec (op e b c) s = .next t ∧ exec (op e a e) t = .next t4) ∧ t4.slot e = some x4 ∧
      x3.words = x4.words) ∧
    (∃ t, exec (.and d a a) s = .next t ∧ t.slot d = some v) ∧
    (∃ t x, exec (.xor d a a) s = .next t ∧ t.slot d = some x ∧ x.nwords = v.nwords ∧ ∀ y ∈ x.words, y = 0) ∧
    ((∀ y ∈ u.words, y = 0) → ∃ t, exec (.or d a b) s = .next t ∧ t.slot d = some v)

/-- 43_algebra R183: the parallel-sum mechanism counts the set bits of every word. -/
def Obligations.ParallelSumCountsTheBits : Prop := ∀ x : Word, (popcountParallel x).toNat = popcount x

/-- 43_algebra R184: `CARD` counts the set positions of the whole words, padding included. -/
def Obligations.CardCountsEveryPosition : Prop :=
  ∀ (a : SlotNo) (s : State) (v : PackedVector), s.Holds a v → v.Wf s.params →
    exec (.card a) s = .next (s.resultIn ((List.range (31 * v.nwords)).countP v.bit))

/-- The source's property P4 (43_algebra R184, 90_conflicts C8): for a canonical vector `CARD` is the number of indices
`GETINDICES` lists. -/
def Obligations.CardEqualsGetIndicesLength : Prop :=
  ∀ (a : SlotNo) (s : State) (v : PackedVector), s.params.Legal → s.Holds a v → v.Wf s.params →
    v.canonical = true → exec (.card a) s = .next (s.resultIn (getIndices a s).length)

/-- 43_algebra R185 to R187: `ISEMPTY`, `ISEQUAL`, `ISSUBSET` are 1 or 0, and 1 exactly when every word is zero, every
word agrees, every bit of `A` is a bit of `B`. -/
def Obligations.PredicatesDecide : Prop :=
  ∀ (a b : SlotNo) (s : State) (v u : PackedVector), s.Holds a v → s.Holds b u → v.nwords = u.nwords →
    (∃ r, exec (.isempty a) s = .next (s.resultIn r) ∧ (r = 0 ∨ r = 1) ∧ (r = 1 ↔ ∀ w ∈ v.words, w = 0)) ∧
    (∃ r, exec (.isequal a b) s = .next (s.resultIn r) ∧ (r = 0 ∨ r = 1) ∧
      (r = 1 ↔ ∀ k < v.nwords, v.word k = u.word k)) ∧
    (∃ r, exec (.issubset a b) s = .next (s.resultIn r) ∧ (r = 0 ∨ r = 1) ∧
      (r = 1 ↔ ∀ k < v.nwords, ∀ i < 32, (v.word k).getLsbD i = true → (u.word k).getLsbD i = true))

/-- 43_algebra R187: `ISSUBSET` is reflexive, antisymmetric up to `ISEQUAL`, and (what its word test implies)
transitive. -/
def Obligations.SubsetIsAPartialOrder : Prop :=
  ∀ (a b c : SlotNo) (s : State) (v : PackedVector), s.Holds a v →
    exec (.issubset a a) s = .next (s.resultIn 1) ∧
    (exec (.issubset a b) s = .next (s.resultIn 1) → exec (.issubset b a) s = .next (s.resultIn 1) →
      exec (.isequal a b) s = .next (s.resultIn 1)) ∧
    (exec (.issubset a b) s = .next (s.resultIn 1) → exec (.issubset b c) s = .next (s.resultIn 1) →
      exec (.issubset a c) s = .next (s.resultIn 1))

/-! ### Codec -/

/-- 44_codec R201: `dec(n)` is the decimal numeral of `n`: digits only, of value `n`, no leading zero but for 0. -/
def Obligations.DecimalNumerals : Prop :=
  ∀ n : Nat, (∀ c ∈ dec n, isDigit c) ∧ decimalValue (dec n) = n ∧ (n = 0 → dec n = [0x30]) ∧
    (n ≠ 0 → ∃ c t, dec n = c :: t ∧ c ≠ 0x30)

/-- 44_codec R203, R204: character `p` of the text of `TOSTR` is the bit at `31*nwords - 1 - p`; the text is
`31*nwords` bytes; nothing else changes. -/
def Obligations.TostrWritesTheBits : Prop :=
  ∀ (a : SlotNo) (s : State) (v : PackedVector), s.params.Legal → s.Holds a v → v.Wf s.params →
    ∃ t out, exec (.tostr a) s = .next t ∧ s.WroteText t out ∧ out.length = 31 * v.nwords ∧
      ∀ p < 31 * v.nwords, out[p]? = some (if v.bit (31 * v.nwords - 1 - p) then 0x31 else 0x30)

/-- 44_codec R210 to R212: `DEHYD` strips the zero words of both ends, writes the others in decimal, each with a comma,
then the count of leading zero words and `maxBit`; an all-zero vector has all its words leading. -/
def Obligations.DehydWritesTheStrippedWords : Prop :=
  ∀ (a : SlotNo) (s : State) (v : PackedVector), s.params.Legal → s.Holds a v → v.Wf s.params →
    ((∀ w ∈ v.words, w = 0) →
      ∃ t, exec (.dehyd a) s = .next t ∧ s.WroteText t (dec v.nwords ++ [0x2C] ++ dec v.mb)) ∧
    ∀ (lz tz : Nat) (first : Word) (mid : List Word) (last : Word), first ≠ 0 → last ≠ 0 →
      (v.words = List.replicate lz 0 ++ (first :: mid ++ [last]) ++ List.replicate tz 0 →
        ∃ t, exec (.dehyd a) s = .next t ∧ s.WroteText t
          ((first :: mid ++ [last]).flatMap (fun w => dec w.toNat ++ [0x2C]) ++ dec lz ++ [0x2C] ++ dec v.mb)) ∧
      (v.words = List.replicate lz 0 ++ [first] ++ List.replicate tz 0 →
        ∃ t, exec (.dehyd a) s = .next t ∧ s.WroteText t
          (dec first.toNat ++ [0x2C] ++ dec lz ++ [0x2C] ++ dec v.mb))

/-- 44_codec R213: the length bound of a dehydrated text, and that it fits the buffer. -/
def Obligations.DehydLengthBound : Prop :=
  ∀ (p : Config.Params) (v : PackedVector), p.Legal → v.Wf p →
    v.dehydrated.length ≤ 11 * v.nwords + 21 ∧ v.dehydrated.length ≤ p.textbytes

/-- 44_codec R214: the text is a key: two vectors have the same text exactly when they have the same `maxBit` and
words. -/
def Obligations.DehydratedTextIsAKey : Prop :=
  ∀ (p : Config.Params) (v u : PackedVector), p.Legal → v.Wf p → u.Wf p → (v.dehydrated = u.dehydrated ↔ v = u)

/-- 44_codec R222: the lexical pass accepts exactly the texts `number (',' number)*`, a number being one or more digits
of value below `2^32`, and reads their values; `REHYD` raises `MalformedEncoding` on every other text. -/
def Obligations.LexicalPassAcceptsTheGrammar : Prop :=
  (∀ (t : List Byte) (nums : List Nat), lexText t none [] = some nums ↔ NumberList t nums) ∧
  ∀ (d : SlotNo) (s : State), s.hasSlot d = true → s.textlen.toNat ≤ s.params.textbytes →
    (∀ nums, ¬ NumberList (s.textRead s.textlen.toNat) nums) →
    exec (.rehyd d) s = .next (s.raisedIn .malformedEncoding)

/-- 44_codec R220, R221, R223 to R227: what `REHYD` does with the numbers the lexical pass reads, in the order of
R220; the text buffer and `TEXTLEN` stay. -/
def Obligations.RehydBuildsTheVector : Prop :=
  ∀ (d : SlotNo) (s : State), s.params.Legal → s.hasSlot d = true →
    (s.params.textbytes < s.textlen.toNat → exec (.rehyd d) s = .next (s.raisedIn .malformedEncoding)) ∧
    (s.textlen.toNat ≤ s.params.textbytes →
      (∀ n, lexText (s.textRead s.textlen.toNat) none [] = none ∨
          lexText (s.textRead s.textlen.toNat) none [] = some [n] →
        exec (.rehyd d) s = .next (s.raisedIn .malformedEncoding)) ∧
      ∀ (given : List Nat) (lz mb : Nat),
        lexText (s.textRead s.textlen.toNat) none [] = some (given ++ [lz, mb]) →
        (s.params.maxcap ≤ mb → exec (.rehyd d) s = .next (s.raisedIn .badCapacity)) ∧
        (mb < s.params.maxcap → mb / 31 + 1 < lz + given.length ∨ (∃ x ∈ given, 2 ^ 31 ≤ x) →
          exec (.rehyd d) s = .next (s.raisedIn .malformedEncoding)) ∧
        (mb < s.params.maxcap → lz + given.length ≤ mb / 31 + 1 → (∀ x ∈ given, x < 2 ^ 31) →
          ∃ v, exec (.rehyd d) s = .next (s.storedIn d v) ∧ v.mb = mb ∧ v.nwords = mb / 31 + 1 ∧
            ∀ k < v.nwords, (v.word k).toNat =
              if k < lz then 0 else (given[k - lz]?).getD 0))

/-- 44_codec R228, THE ROUND TRIP: `DEHYD vA` then `REHYD vD` completes and leaves in slot `D` exactly the vector of
slot `A`, canonical or not. -/
def Obligations.DehydRehydRoundTrip : Prop :=
  ∀ (a d : SlotNo) (s : State) (v : PackedVector), s.Inv → s.Holds a v → s.hasSlot d = true →
    ∃ t u, exec (.dehyd a) s = .next t ∧ exec (.rehyd d) t = .next u ∧ t.status.code = none ∧
      u.status.code = none ∧ u.slot d = some v
end

