-- ==== Sys2Proof/Laws/State.lean ====
section
/-! SUPPORT. One lemma per field of State per update, true by rfl, so that no proof unfolds a record update. -/

namespace Sys2Proof.Machine

@[simp] theorem State.raise_params (s : State) (e : Exc) : (s.raise e).params = s.params := rfl
@[simp] theorem State.raise_slots (s : State) (e : Exc) : (s.raise e).slots = s.slots := rfl
@[simp] theorem State.raise_arg0 (s : State) (e : Exc) : (s.raise e).arg0 = s.arg0 := rfl
@[simp] theorem State.raise_arg1 (s : State) (e : Exc) : (s.raise e).arg1 = s.arg1 := rfl
@[simp] theorem State.raise_cmd (s : State) (e : Exc) : (s.raise e).cmd = s.cmd := rfl
@[simp] theorem State.raise_status (s : State) (e : Exc) : (s.raise e).status = s.status.raised e := rfl
@[simp] theorem State.raise_res (s : State) (e : Exc) : (s.raise e).res = s.res := rfl
@[simp] theorem State.raise_textlen (s : State) (e : Exc) : (s.raise e).textlen = s.textlen := rfl
@[simp] theorem State.raise_text (s : State) (e : Exc) : (s.raise e).text = s.text := rfl
@[simp] theorem State.raise_textEpoch (s : State) (e : Exc) : (s.raise e).textEpoch = s.textEpoch := rfl
@[simp] theorem State.raise_pending (s : State) (e : Exc) : (s.raise e).pending = s.pending := rfl
@[simp] theorem State.raise_observed (s : State) (e : Exc) : (s.raise e).observed = s.observed := rfl

@[simp] theorem State.complete_params (s : State) (r : Int) : (s.complete r).params = s.params := rfl
@[simp] theorem State.complete_slots (s : State) (r : Int) : (s.complete r).slots = s.slots := rfl
@[simp] theorem State.complete_arg0 (s : State) (r : Int) : (s.complete r).arg0 = s.arg0 := rfl
@[simp] theorem State.complete_arg1 (s : State) (r : Int) : (s.complete r).arg1 = s.arg1 := rfl
@[simp] theorem State.complete_cmd (s : State) (r : Int) : (s.complete r).cmd = s.cmd := rfl
@[simp] theorem State.complete_status (s : State) (r : Int) : (s.complete r).status = s.status.completed := rfl
@[simp] theorem State.complete_res (s : State) (r : Int) : (s.complete r).res = u32 r := rfl
@[simp] theorem State.complete_textlen (s : State) (r : Int) : (s.complete r).textlen = s.textlen := rfl
@[simp] theorem State.complete_text (s : State) (r : Int) : (s.complete r).text = s.text := rfl
@[simp] theorem State.complete_textEpoch (s : State) (r : Int) : (s.complete r).textEpoch = s.textEpoch := rfl
@[simp] theorem State.complete_pending (s : State) (r : Int) : (s.complete r).pending = s.pending := rfl
@[simp] theorem State.complete_observed (s : State) (r : Int) : (s.complete r).observed = s.observed := rfl

@[simp] theorem State.putVector_params (s : State) (f : SlotNo) (v : PackedVector) : (s.putVector f v).params = s.params := rfl
@[simp] theorem State.putVector_slots (s : State) (f : SlotNo) (v : PackedVector) : (s.putVector f v).slots = s.slots.set f.val (some v) f.isLt := rfl
@[simp] theorem State.putVector_arg0 (s : State) (f : SlotNo) (v : PackedVector) : (s.putVector f v).arg0 = s.arg0 := rfl
@[simp] theorem State.putVector_arg1 (s : State) (f : SlotNo) (v : PackedVector) : (s.putVector f v).arg1 = s.arg1 := rfl
@[simp] theorem State.putVector_cmd (s : State) (f : SlotNo) (v : PackedVector) : (s.putVector f v).cmd = s.cmd := rfl
@[simp] theorem State.putVector_status (s : State) (f : SlotNo) (v : PackedVector) : (s.putVector f v).status = s.status := rfl
@[simp] theorem State.putVector_res (s : State) (f : SlotNo) (v : PackedVector) : (s.putVector f v).res = s.res := rfl
@[simp] theorem State.putVector_textlen (s : State) (f : SlotNo) (v : PackedVector) : (s.putVector f v).textlen = s.textlen := rfl
@[simp] theorem State.putVector_text (s : State) (f : SlotNo) (v : PackedVector) : (s.putVector f v).text = s.text := rfl
@[simp] theorem State.putVector_textEpoch (s : State) (f : SlotNo) (v : PackedVector) : (s.putVector f v).textEpoch = s.textEpoch := rfl
@[simp] theorem State.putVector_pending (s : State) (f : SlotNo) (v : PackedVector) : (s.putVector f v).pending = s.pending := rfl
@[simp] theorem State.putVector_observed (s : State) (f : SlotNo) (v : PackedVector) : (s.putVector f v).observed = s.observed := rfl

@[simp] theorem State.textWrite_params (s : State) (a : Nat) (bs : List Byte) : (s.textWrite a bs).params = s.params := rfl
@[simp] theorem State.textWrite_slots (s : State) (a : Nat) (bs : List Byte) : (s.textWrite a bs).slots = s.slots := rfl
@[simp] theorem State.textWrite_arg0 (s : State) (a : Nat) (bs : List Byte) : (s.textWrite a bs).arg0 = s.arg0 := rfl
@[simp] theorem State.textWrite_arg1 (s : State) (a : Nat) (bs : List Byte) : (s.textWrite a bs).arg1 = s.arg1 := rfl
@[simp] theorem State.textWrite_cmd (s : State) (a : Nat) (bs : List Byte) : (s.textWrite a bs).cmd = s.cmd := rfl
@[simp] theorem State.textWrite_status (s : State) (a : Nat) (bs : List Byte) : (s.textWrite a bs).status = s.status := rfl
@[simp] theorem State.textWrite_res (s : State) (a : Nat) (bs : List Byte) : (s.textWrite a bs).res = s.res := rfl
@[simp] theorem State.textWrite_textlen (s : State) (a : Nat) (bs : List Byte) : (s.textWrite a bs).textlen = s.textlen := rfl
@[simp] theorem State.textWrite_text (s : State) (a : Nat) (bs : List Byte) : (s.textWrite a bs).text = memoryWrite s.text a (bs.take (s.params.textbytes - a)) := rfl
@[simp] theorem State.textWrite_textEpoch (s : State) (a : Nat) (bs : List Byte) : (s.textWrite a bs).textEpoch = s.textEpoch := rfl
@[simp] theorem State.textWrite_pending (s : State) (a : Nat) (bs : List Byte) : (s.textWrite a bs).pending = s.pending := rfl
@[simp] theorem State.textWrite_observed (s : State) (a : Nat) (bs : List Byte) : (s.textWrite a bs).observed = s.observed := rfl

@[simp] theorem State.putText_params (s : State) (t : List Byte) : (s.putText t).params = s.params := rfl
@[simp] theorem State.putText_slots (s : State) (t : List Byte) : (s.putText t).slots = s.slots := rfl
@[simp] theorem State.putText_arg0 (s : State) (t : List Byte) : (s.putText t).arg0 = s.arg0 := rfl
@[simp] theorem State.putText_arg1 (s : State) (t : List Byte) : (s.putText t).arg1 = s.arg1 := rfl
@[simp] theorem State.putText_cmd (s : State) (t : List Byte) : (s.putText t).cmd = s.cmd := rfl
@[simp] theorem State.putText_status (s : State) (t : List Byte) : (s.putText t).status = s.status := rfl
@[simp] theorem State.putText_res (s : State) (t : List Byte) : (s.putText t).res = s.res := rfl
@[simp] theorem State.putText_textlen (s : State) (t : List Byte) : (s.putText t).textlen = BitVec.ofNat 32 t.length := rfl
@[simp] theorem State.putText_text (s : State) (t : List Byte) : (s.putText t).text = memoryWrite s.text 0 (t.take s.params.textbytes) := rfl
@[simp] theorem State.putText_textEpoch (s : State) (t : List Byte) : (s.putText t).textEpoch = s.textEpoch := rfl
@[simp] theorem State.putText_pending (s : State) (t : List Byte) : (s.putText t).pending = s.pending := rfl
@[simp] theorem State.putText_observed (s : State) (t : List Byte) : (s.putText t).observed = s.observed := rfl

@[simp] theorem State.writeStatus_params (s : State) (x : Word) : (s.writeStatus x).params = s.params := rfl
@[simp] theorem State.writeStatus_slots (s : State) (x : Word) : (s.writeStatus x).slots = s.slots := rfl
@[simp] theorem State.writeStatus_arg0 (s : State) (x : Word) : (s.writeStatus x).arg0 = s.arg0 := rfl
@[simp] theorem State.writeStatus_arg1 (s : State) (x : Word) : (s.writeStatus x).arg1 = s.arg1 := rfl
@[simp] theorem State.writeStatus_cmd (s : State) (x : Word) : (s.writeStatus x).cmd = s.cmd := rfl
@[simp] theorem State.writeStatus_status (s : State) (x : Word) : (s.writeStatus x).status = s.status.hostWrite x := rfl
@[simp] theorem State.writeStatus_res (s : State) (x : Word) : (s.writeStatus x).res = s.res := rfl
@[simp] theorem State.writeStatus_textlen (s : State) (x : Word) : (s.writeStatus x).textlen = s.textlen := rfl
@[simp] theorem State.writeStatus_text (s : State) (x : Word) : (s.writeStatus x).text = s.text := rfl
@[simp] theorem State.writeStatus_textEpoch (s : State) (x : Word) : (s.writeStatus x).textEpoch = s.textEpoch := rfl
@[simp] theorem State.writeStatus_pending (s : State) (x : Word) : (s.writeStatus x).pending = s.pending := rfl
@[simp] theorem State.writeStatus_observed (s : State) (x : Word) : (s.writeStatus x).observed = s.observed := rfl

@[simp] theorem State.observe_params (s : State) (r : Reading) : (s.observe r).params = s.params := rfl
@[simp] theorem State.observe_slots (s : State) (r : Reading) : (s.observe r).slots = s.slots := rfl
@[simp] theorem State.observe_arg0 (s : State) (r : Reading) : (s.observe r).arg0 = s.arg0 := rfl
@[simp] theorem State.observe_arg1 (s : State) (r : Reading) : (s.observe r).arg1 = s.arg1 := rfl
@[simp] theorem State.observe_cmd (s : State) (r : Reading) : (s.observe r).cmd = s.cmd := rfl
@[simp] theorem State.observe_status (s : State) (r : Reading) : (s.observe r).status = s.status := rfl
@[simp] theorem State.observe_res (s : State) (r : Reading) : (s.observe r).res = s.res := rfl
@[simp] theorem State.observe_textlen (s : State) (r : Reading) : (s.observe r).textlen = s.textlen := rfl
@[simp] theorem State.observe_text (s : State) (r : Reading) : (s.observe r).text = s.text := rfl
@[simp] theorem State.observe_textEpoch (s : State) (r : Reading) : (s.observe r).textEpoch = s.textEpoch := rfl
@[simp] theorem State.observe_pending (s : State) (r : Reading) : (s.observe r).pending = s.pending := rfl
@[simp] theorem State.observe_observed (s : State) (r : Reading) : (s.observe r).observed = s.observed ++ [r] := rfl

@[simp] theorem State.observeBytes_params (s : State) (bs : List Byte) : (s.observeBytes bs).params = s.params := rfl
@[simp] theorem State.observeBytes_slots (s : State) (bs : List Byte) : (s.observeBytes bs).slots = s.slots := rfl
@[simp] theorem State.observeBytes_arg0 (s : State) (bs : List Byte) : (s.observeBytes bs).arg0 = s.arg0 := rfl
@[simp] theorem State.observeBytes_arg1 (s : State) (bs : List Byte) : (s.observeBytes bs).arg1 = s.arg1 := rfl
@[simp] theorem State.observeBytes_cmd (s : State) (bs : List Byte) : (s.observeBytes bs).cmd = s.cmd := rfl
@[simp] theorem State.observeBytes_status (s : State) (bs : List Byte) : (s.observeBytes bs).status = s.status := rfl
@[simp] theorem State.observeBytes_res (s : State) (bs : List Byte) : (s.observeBytes bs).res = s.res := rfl
@[simp] theorem State.observeBytes_textlen (s : State) (bs : List Byte) : (s.observeBytes bs).textlen = s.textlen := rfl
@[simp] theorem State.observeBytes_text (s : State) (bs : List Byte) : (s.observeBytes bs).text = s.text := rfl
@[simp] theorem State.observeBytes_textEpoch (s : State) (bs : List Byte) : (s.observeBytes bs).textEpoch = s.textEpoch := rfl
@[simp] theorem State.observeBytes_pending (s : State) (bs : List Byte) : (s.observeBytes bs).pending = s.pending := rfl
@[simp] theorem State.observeBytes_observed (s : State) (bs : List Byte) : (s.observeBytes bs).observed = s.observed ++ bs.map Reading.byte := rfl

@[simp] theorem State.applyReset_params (s : State) : (s.applyReset).params = s.params := rfl
@[simp] theorem State.applyReset_slots (s : State) : (s.applyReset).slots = Vector.replicate 16 none := rfl
@[simp] theorem State.applyReset_arg0 (s : State) : (s.applyReset).arg0 = 0 := rfl
@[simp] theorem State.applyReset_arg1 (s : State) : (s.applyReset).arg1 = 0 := rfl
@[simp] theorem State.applyReset_cmd (s : State) : (s.applyReset).cmd = 0 := rfl
@[simp] theorem State.applyReset_status (s : State) : (s.applyReset).status = ⟨none, false⟩ := rfl
@[simp] theorem State.applyReset_res (s : State) : (s.applyReset).res = 0 := rfl
@[simp] theorem State.applyReset_textlen (s : State) : (s.applyReset).textlen = 0 := rfl
@[simp] theorem State.applyReset_text (s : State) : (s.applyReset).text = [] := rfl
@[simp] theorem State.applyReset_textEpoch (s : State) : (s.applyReset).textEpoch = s.textEpoch + 1 := rfl
@[simp] theorem State.applyReset_pending (s : State) : (s.applyReset).pending = s.pending := rfl
@[simp] theorem State.applyReset_observed (s : State) : (s.applyReset).observed = s.observed := rfl

@[simp] theorem State.withFetchWord_params (s : State) (nbits w : Nat) : (s.withFetchWord nbits w).params = s.params := rfl
@[simp] theorem State.withFetchWord_slots (s : State) (nbits w : Nat) : (s.withFetchWord nbits w).slots = s.slots := rfl
@[simp] theorem State.withFetchWord_arg0 (s : State) (nbits w : Nat) : (s.withFetchWord nbits w).arg0 = s.arg0 := rfl
@[simp] theorem State.withFetchWord_arg1 (s : State) (nbits w : Nat) : (s.withFetchWord nbits w).arg1 = s.arg1 := rfl
@[simp] theorem State.withFetchWord_cmd (s : State) (nbits w : Nat) : (s.withFetchWord nbits w).cmd = s.cmd := rfl
@[simp] theorem State.withFetchWord_status (s : State) (nbits w : Nat) : (s.withFetchWord nbits w).status = s.status := rfl
@[simp] theorem State.withFetchWord_res (s : State) (nbits w : Nat) : (s.withFetchWord nbits w).res = s.res := rfl
@[simp] theorem State.withFetchWord_textlen (s : State) (nbits w : Nat) : (s.withFetchWord nbits w).textlen = s.textlen := rfl
@[simp] theorem State.withFetchWord_text (s : State) (nbits w : Nat) : (s.withFetchWord nbits w).text = s.text := rfl
@[simp] theorem State.withFetchWord_textEpoch (s : State) (nbits w : Nat) : (s.withFetchWord nbits w).textEpoch = s.textEpoch := rfl
@[simp] theorem State.withFetchWord_pending (s : State) (nbits w : Nat) : (s.withFetchWord nbits w).pending = Input.txn (.regWrite .cmd (BitVec.ofNat 32 (w % 2 ^ nbits))) :: s.pending := rfl
@[simp] theorem State.withFetchWord_observed (s : State) (nbits w : Nat) : (s.withFetchWord nbits w).observed = s.observed := rfl

/-! ### Slots -/

theorem State.slot_eq (s : State) (f : SlotNo) : s.slot f = s.slots[f] := rfl

/-- A slot write changes that slot and no other (10_state R26). -/
theorem State.slot_putVector (s : State) (f g : SlotNo) (v : PackedVector) :
    (s.putVector f v).slot g = if f = g then some v else s.slot g := by
  simp only [State.slot, State.putVector, Fin.getElem_fin, Vector.getElem_set, Fin.ext_iff]

@[simp] theorem State.slot_putVector_self (s : State) (f : SlotNo) (v : PackedVector) :
    (s.putVector f v).slot f = some v := by
  simp [State.slot_putVector]

theorem State.slot_putVector_of_ne (s : State) (f g : SlotNo) (v : PackedVector) (h : f ≠ g) :
    (s.putVector f v).slot g = s.slot g := by
  simp [State.slot_putVector, h]

/-- Putting back what a slot holds changes nothing. -/
theorem State.putVector_self (s : State) (f : SlotNo) (v : PackedVector) (h : s.slot f = some v) :
    s.putVector f v = s := by
  have hs : s.slots.set f.val (some v) f.isLt = s.slots := by
    apply Vector.ext
    intro i hi
    rw [Vector.getElem_set]
    split
    · next e => subst e; exact h.symm
    · rfl
  simp only [State.putVector, hs]

@[simp] theorem State.raise_slot (s : State) (e : Exc) (g : SlotNo) : (s.raise e).slot g = s.slot g := rfl
@[simp] theorem State.raise_hasSlot (s : State) (e : Exc) (g : SlotNo) : (s.raise e).hasSlot g = s.hasSlot g := rfl
@[simp] theorem State.raise_textByte (s : State) (e : Exc) (i : Nat) : (s.raise e).textByte i = s.textByte i := rfl
@[simp] theorem State.complete_slot (s : State) (r : Int) (g : SlotNo) : (s.complete r).slot g = s.slot g := rfl
@[simp] theorem State.complete_hasSlot (s : State) (r : Int) (g : SlotNo) : (s.complete r).hasSlot g = s.hasSlot g := rfl
@[simp] theorem State.complete_textByte (s : State) (r : Int) (i : Nat) : (s.complete r).textByte i = s.textByte i := rfl
@[simp] theorem State.putVector_hasSlot (s : State) (f : SlotNo) (v : PackedVector) (g : SlotNo) : (s.putVector f v).hasSlot g = s.hasSlot g := rfl
@[simp] theorem State.putVector_textByte (s : State) (f : SlotNo) (v : PackedVector) (i : Nat) : (s.putVector f v).textByte i = s.textByte i := rfl
@[simp] theorem State.textWrite_slot (s : State) (a : Nat) (bs : List Byte) (g : SlotNo) : (s.textWrite a bs).slot g = s.slot g := rfl
@[simp] theorem State.textWrite_hasSlot (s : State) (a : Nat) (bs : List Byte) (g : SlotNo) : (s.textWrite a bs).hasSlot g = s.hasSlot g := rfl
@[simp] theorem State.putText_slot (s : State) (t : List Byte) (g : SlotNo) : (s.putText t).slot g = s.slot g := rfl
@[simp] theorem State.putText_hasSlot (s : State) (t : List Byte) (g : SlotNo) : (s.putText t).hasSlot g = s.hasSlot g := rfl
@[simp] theorem State.writeStatus_slot (s : State) (x : Word) (g : SlotNo) : (s.writeStatus x).slot g = s.slot g := rfl
@[simp] theorem State.writeStatus_hasSlot (s : State) (x : Word) (g : SlotNo) : (s.writeStatus x).hasSlot g = s.hasSlot g := rfl
@[simp] theorem State.writeStatus_textByte (s : State) (x : Word) (i : Nat) : (s.writeStatus x).textByte i = s.textByte i := rfl
@[simp] theorem State.observe_slot (s : State) (r : Reading) (g : SlotNo) : (s.observe r).slot g = s.slot g := rfl
@[simp] theorem State.observe_hasSlot (s : State) (r : Reading) (g : SlotNo) : (s.observe r).hasSlot g = s.hasSlot g := rfl
@[simp] theorem State.observe_textByte (s : State) (r : Reading) (i : Nat) : (s.observe r).textByte i = s.textByte i := rfl
@[simp] theorem State.observeBytes_slot (s : State) (bs : List Byte) (g : SlotNo) : (s.observeBytes bs).slot g = s.slot g := rfl
@[simp] theorem State.observeBytes_hasSlot (s : State) (bs : List Byte) (g : SlotNo) : (s.observeBytes bs).hasSlot g = s.hasSlot g := rfl
@[simp] theorem State.observeBytes_textByte (s : State) (bs : List Byte) (i : Nat) : (s.observeBytes bs).textByte i = s.textByte i := rfl
@[simp] theorem State.applyReset_hasSlot (s : State) (g : SlotNo) : (s.applyReset).hasSlot g = s.hasSlot g := rfl
@[simp] theorem State.withFetchWord_slot (s : State) (nbits w : Nat) (g : SlotNo) : (s.withFetchWord nbits w).slot g = s.slot g := rfl
@[simp] theorem State.withFetchWord_hasSlot (s : State) (nbits w : Nat) (g : SlotNo) : (s.withFetchWord nbits w).hasSlot g = s.hasSlot g := rfl
@[simp] theorem State.withFetchWord_textByte (s : State) (nbits w : Nat) (i : Nat) : (s.withFetchWord nbits w).textByte i = s.textByte i := rfl

@[simp] theorem State.applyReset_slot (s : State) (g : SlotNo) : s.applyReset.slot g = none := by
  simp [State.slot]

@[simp] theorem State.resetOf_slot (p : Config.Params) (g : SlotNo) : (State.resetOf p).slot g = none := by
  simp [State.slot, State.resetOf]

/-! ### Status -/

@[simp] theorem Status.completed_code (t : Status) : t.completed.code = none := rfl
@[simp] theorem Status.completed_sticky (t : Status) : t.completed.sticky = t.sticky := rfl
@[simp] theorem Status.raised_code (t : Status) (e : Exc) : (t.raised e).code = some e := rfl
@[simp] theorem Status.raised_sticky (t : Status) (e : Exc) : (t.raised e).sticky = true := rfl

@[simp] theorem Status.hostWrite_code (t : Status) (x : Word) : (t.hostWrite x).code = t.code := by
  unfold Status.hostWrite; split <;> rfl

@[simp] theorem Status.hostWrite_sticky (t : Status) (x : Word) :
    (t.hostWrite x).sticky = (t.sticky && !x.getLsbD 8) := by
  unfold Status.hostWrite; split <;> simp_all

end Sys2Proof.Machine
end

