-- ==== Sys2Proof/Laws/Ops.lean ====
section
/-! SUPPORT. For each shared operation, once, everything it can do: what the frame of a command answers (30_encoding
R74), when the bounds check passes (40_storage R100), when the capacity check passes (43_algebra R171). -/

namespace Sys2Proof.Machine

/-! ### The ends of a command -/

@[simp] theorem State.finish_error (s : State) (e : Exc) : s.finish (.error e) = s.raise e := rfl
@[simp] theorem State.finish_ok (s s' : State) (r : Int) : s.finish (.ok (s', r)) = s'.complete r := rfl
@[simp] theorem State.finish_answer (s s' : State) (r : Int) : s.finish (answer s' r) = s'.complete r := rfl

@[simp] theorem State.finish_store (s s' : State) (f : SlotNo) (v : PackedVector) :
    s.finish (store s' f v) = (s'.putVector f v).complete success := rfl

@[simp] theorem State.finish_emit (s s' : State) (t : List Byte) :
    s.finish (emit s' t) = (s'.putText t).complete t.length := rfl

/-- A command ends in an exception taken in the state it started in, or completes. -/
theorem State.finish_cases (s : State) (r : Answer) :
    (∃ e, r = .error e ∧ s.finish r = s.raise e) ∨
      (∃ s' n, r = .ok (s', n) ∧ s.finish r = s'.complete n) := by
  match r with
  | .error e => exact .inl ⟨e, rfl, rfl⟩
  | .ok (s', n) => exact .inr ⟨s', n, rfl, rfl⟩

/-! ### The bounds check -/

theorem PackedVector.indexToWord_ok (v : PackedVector) (idx : Int) (h0 : 0 ≤ idx) (h1 : idx ≤ v.mb) :
    v.indexToWord idx = .ok (idx.toNat / 31) := by
  unfold PackedVector.indexToWord
  rw [if_neg (by omega)]

theorem PackedVector.indexToWord_error (v : PackedVector) (idx : Int) (h : idx < 0 ∨ (v.mb : Int) < idx) :
    v.indexToWord idx = .error .indexOutOfRange := by
  unfold PackedVector.indexToWord
  rw [if_pos h]

/-- An index in range goes on with its word and bit position. -/
theorem atIndex_ok (v : PackedVector) (idx : Int) (go : Nat → Nat → Answer) (h0 : 0 ≤ idx) (h1 : idx ≤ v.mb) :
    atIndex v idx go = go (idx.toNat / 31) (idx.toNat % 31) := by
  simp only [atIndex, v.indexToWord_ok idx h0 h1]

/-- An index out of range raises. -/
theorem atIndex_error (v : PackedVector) (idx : Int) (go : Nat → Nat → Answer)
    (h : idx < 0 ∨ (v.mb : Int) < idx) : atIndex v idx go = .error .indexOutOfRange := by
  simp only [atIndex, v.indexToWord_error idx h]

/-- Everything an index operand can lead to. -/
theorem atIndex_cases (v : PackedVector) (idx : Int) (go : Nat → Nat → Answer) :
    ((idx < 0 ∨ (v.mb : Int) < idx) ∧ atIndex v idx go = .error .indexOutOfRange) ∨
      (0 ≤ idx ∧ idx ≤ v.mb ∧ atIndex v idx go = go (idx.toNat / 31) (idx.toNat % 31)) := by
  by_cases h : idx < 0 ∨ (v.mb : Int) < idx
  · exact .inl ⟨h, atIndex_error v idx go h⟩
  · exact .inr ⟨by omega, by omega, atIndex_ok v idx go (by omega) (by omega)⟩

/-! ### The capacity check -/

theorem sameSize_ok (v u : PackedVector) (go : Answer) (h : v.nwords = u.nwords) : sameSize v u go = go :=
  if_pos h

theorem sameSize_error (v u : PackedVector) (go : Answer) (h : v.nwords ≠ u.nwords) :
    sameSize v u go = .error .capacityMismatch :=
  if_neg h

/-- Everything the capacity check can lead to. -/
theorem sameSize_cases (v u : PackedVector) (go : Answer) :
    (v.nwords ≠ u.nwords ∧ sameSize v u go = .error .capacityMismatch) ∨
      (v.nwords = u.nwords ∧ sameSize v u go = go) := by
  by_cases h : v.nwords = u.nwords
  · exact .inr ⟨h, sameSize_ok v u go h⟩
  · exact .inl ⟨h, sameSize_error v u go h⟩

/-! ### Source validity (30_encoding R74 step 2) -/

theorem State.withA_some (s : State) (a : SlotNo) (v : PackedVector) (rule : PackedVector → Answer)
    (h : s.slot a = some v) : s.withA a rule = s.finish (rule v) := by
  simp only [State.withA, h]

theorem State.withA_none (s : State) (a : SlotNo) (rule : PackedVector → Answer) (h : s.slot a = none) :
    s.withA a rule = s.raise .slotInvalid := by
  simp only [State.withA, h]

theorem State.withAB_some (s : State) (a b : SlotNo) (v u : PackedVector)
    (rule : PackedVector → PackedVector → Answer) (ha : s.slot a = some v) (hb : s.slot b = some u) :
    s.withAB a b rule = s.finish (rule v u) := by
  simp only [State.withAB, ha, hb]

theorem State.withAB_none (s : State) (a b : SlotNo) (rule : PackedVector → PackedVector → Answer)
    (h : s.slot a = none ∨ s.slot b = none) : s.withAB a b rule = s.raise .slotInvalid := by
  unfold State.withAB
  rcases h with h | h
  · simp only [h]
  · split
    · rfl
    · simp only [h]

/-! ### The frames of the five formats -/

/-- Everything a command of format `F_D` can do. -/
theorem commandD_cases (d : SlotNo) (s : State) (rule : Answer) :
    (s.hasSlot d = false ∧ commandD d s rule = .next (s.raise .illegalCommand)) ∨
      (s.hasSlot d = true ∧ commandD d s rule = .next (s.finish rule)) := by
  unfold commandD
  cases s.hasSlot d <;> simp

/-- Everything a command of format `F_A` can do. -/
theorem commandA_cases (a : SlotNo) (s : State) (rule : PackedVector → Answer) :
    (s.hasSlot a = false ∧ commandA a s rule = .next (s.raise .illegalCommand)) ∨
      (s.hasSlot a = true ∧ s.slot a = none ∧ commandA a s rule = .next (s.raise .slotInvalid)) ∨
      (s.hasSlot a = true ∧ ∃ v, s.slot a = some v ∧ commandA a s rule = .next (s.finish (rule v))) := by
  unfold commandA
  cases hh : s.hasSlot a
  · simp
  · cases hs : s.slot a with
    | none => simp [s.withA_none a rule hs]
    | some v => simp [s.withA_some a v rule hs]

/-- Everything a command of format `F_AB` can do. -/
theorem commandAB_cases (a b : SlotNo) (s : State) (rule : PackedVector → PackedVector → Answer) :
    ((s.hasSlot a = false ∨ s.hasSlot b = false) ∧ commandAB a b s rule = .next (s.raise .illegalCommand)) ∨
      (s.hasSlot a = true ∧ s.hasSlot b = true ∧ (s.slot a = none ∨ s.slot b = none) ∧
        commandAB a b s rule = .next (s.raise .slotInvalid)) ∨
      (s.hasSlot a = true ∧ s.hasSlot b = true ∧ ∃ v u, s.slot a = some v ∧ s.slot b = some u ∧
        commandAB a b s rule = .next (s.finish (rule v u))) := by
  unfold commandAB
  cases hha : s.hasSlot a
  · simp
  · cases hhb : s.hasSlot b
    · simp
    · cases ha : s.slot a with
      | none => simp [s.withAB_none a b rule (.inl ha)]
      | some v =>
        cases hb : s.slot b with
        | none => simp [s.withAB_none a b rule (.inr hb)]
        | some u => simp [s.withAB_some a b v u rule ha hb]

/-- Everything a command of format `F_DA` can do. -/
theorem commandDA_cases (d a : SlotNo) (s : State) (rule : PackedVector → Answer) :
    ((s.hasSlot d = false ∨ s.hasSlot a = false) ∧ commandDA d a s rule = .next (s.raise .illegalCommand)) ∨
      (s.hasSlot d = true ∧ s.hasSlot a = true ∧ s.slot a = none ∧
        commandDA d a s rule = .next (s.raise .slotInvalid)) ∨
      (s.hasSlot d = true ∧ s.hasSlot a = true ∧ ∃ v, s.slot a = some v ∧
        commandDA d a s rule = .next (s.finish (rule v))) := by
  unfold commandDA
  cases hhd : s.hasSlot d
  · simp
  · cases hha : s.hasSlot a
    · simp
    · cases hs : s.slot a with
      | none => simp [s.withA_none a rule hs]
      | some v => simp [s.withA_some a v rule hs]

/-- Everything a command of format `F_DAB` can do. -/
theorem commandDAB_cases (d a b : SlotNo) (s : State) (rule : PackedVector → PackedVector → Answer) :
    ((s.hasSlot d = false ∨ s.hasSlot a = false ∨ s.hasSlot b = false) ∧
        commandDAB d a b s rule = .next (s.raise .illegalCommand)) ∨
      (s.hasSlot d = true ∧ s.hasSlot a = true ∧ s.hasSlot b = true ∧ (s.slot a = none ∨ s.slot b = none) ∧
        commandDAB d a b s rule = .next (s.raise .slotInvalid)) ∨
      (s.hasSlot d = true ∧ s.hasSlot a = true ∧ s.hasSlot b = true ∧
        ∃ v u, s.slot a = some v ∧ s.slot b = some u ∧
          commandDAB d a b s rule = .next (s.finish (rule v u))) := by
  unfold commandDAB
  cases hhd : s.hasSlot d
  · simp
  · cases hha : s.hasSlot a
    · simp
    · cases hhb : s.hasSlot b
      · simp
      · cases ha : s.slot a with
        | none => simp [s.withAB_none a b rule (.inl ha)]
        | some v =>
          cases hb : s.slot b with
          | none => simp [s.withAB_none a b rule (.inr hb)]
          | some u => simp [s.withAB_some a b v u rule ha hb]

/-! ### Commands past their general checks -/

theorem commandD_runs (d : SlotNo) (s : State) (rule : Answer) (hd : s.hasSlot d = true) :
    commandD d s rule = .next (s.finish rule) := by
  simp [commandD, hd]

theorem commandA_runs (a : SlotNo) (s : State) (rule : PackedVector → Answer) (v : PackedVector)
    (ha : s.hasSlot a = true) (h : s.slot a = some v) : commandA a s rule = .next (s.finish (rule v)) := by
  simp [commandA, ha, s.withA_some a v rule h]

theorem commandAB_runs (a b : SlotNo) (s : State) (rule : PackedVector → PackedVector → Answer)
    (v u : PackedVector) (ha : s.hasSlot a = true) (hb : s.hasSlot b = true) (hv : s.slot a = some v)
    (hu : s.slot b = some u) : commandAB a b s rule = .next (s.finish (rule v u)) := by
  simp [commandAB, ha, hb, s.withAB_some a b v u rule hv hu]

theorem commandDA_runs (d a : SlotNo) (s : State) (rule : PackedVector → Answer) (v : PackedVector)
    (hd : s.hasSlot d = true) (ha : s.hasSlot a = true) (h : s.slot a = some v) :
    commandDA d a s rule = .next (s.finish (rule v)) := by
  simp [commandDA, hd, ha, s.withA_some a v rule h]

theorem commandDAB_runs (d a b : SlotNo) (s : State) (rule : PackedVector → PackedVector → Answer)
    (v u : PackedVector) (hd : s.hasSlot d = true) (ha : s.hasSlot a = true) (hb : s.hasSlot b = true)
    (hv : s.slot a = some v) (hu : s.slot b = some u) :
    commandDAB d a b s rule = .next (s.finish (rule v u)) := by
  simp [commandDAB, hd, ha, hb, s.withAB_some a b v u rule hv hu]

end Sys2Proof.Machine
end

