-- ==== Sys2Proof/Laws/Words.lean ====
section
/-! SUPPORT. Bits of the masks and words the commands build, and what the word unit answers (00_scope R11, 41_bitscan
R120, R124). -/

namespace Sys2Proof.Machine

/-- Bit `i` of `mask(len, start)`. -/
theorem mask_getLsbD (len start i : Nat) :
    (mask len start).getLsbD i = (decide (i < 32) && decide (start ≤ i) && decide (i < start + len)) := by
  rw [mask, BitVec.getLsbD_ofNat, ← Nat.shiftLeft_eq, Nat.testBit_shiftLeft, Nat.testBit_two_pow_sub_one]
  by_cases h : start ≤ i
  · have h1 : i - start < len ↔ i < start + len := by omega
    simp [h, h1]
  · simp [h]

/-- Bit `i` of `onehot(b)`. -/
theorem onehot_getLsbD (b i : Nat) : (onehot b).getLsbD i = (decide (i < 32) && decide (b = i)) := by
  rw [onehot, BitVec.getLsbD_ofNat, Nat.testBit_two_pow]

/-- Bit `i` of `FULL`. -/
theorem full_getLsbD (i : Nat) : Config.full.getLsbD i = decide (i < 31) := by
  have h : Config.full = mask 31 0 := by decide
  rw [h, mask_getLsbD]
  by_cases h31 : i < 31
  · simp [h31]; omega
  · simp [h31]

/-- A word is 0 exactly when none of its 32 bits is set. -/
theorem word_eq_zero_iff (x : Word) : x = 0 ↔ ∀ i < 32, x.getLsbD i = false := by
  constructor
  · rintro rfl i _
    simp
  · intro h
    apply BitVec.eq_of_getLsbD_eq
    intro i hi
    simp [h i hi]

/-- THE WORD UNIT: `lsb` of a non-zero word is its least set bit (41_bitscan R120). -/
theorem lsb_spec (x : Word) (h : x ≠ 0) :
    lsb x < 32 ∧ x.getLsbD (lsb x) = true ∧ ∀ i < lsb x, x.getLsbD i = false := by
  unfold lsb
  cases hf : (List.range 32).find? fun i => x.getLsbD i with
  | none =>
    exfalso
    apply h
    rw [word_eq_zero_iff]
    intro i hi
    simpa using List.find?_eq_none.1 hf i (List.mem_range.2 hi)
  | some k =>
    obtain ⟨h1, h2, h3⟩ := List.find?_range_eq_some.1 hf
    refine ⟨List.mem_range.1 h2, h1, fun i hi => ?_⟩
    simpa using h3 i hi

/-- THE WORD UNIT: `msb` of a non-zero word is its greatest set bit (41_bitscan R120). -/
theorem msb_spec (x : Word) (h : x ≠ 0) :
    msb x < 32 ∧ x.getLsbD (msb x) = true ∧ ∀ i, msb x < i → x.getLsbD i = false := by
  unfold msb
  cases hf : (List.range 32).reverse.find? fun i => x.getLsbD i with
  | none =>
    exfalso
    apply h
    rw [word_eq_zero_iff]
    intro i hi
    simpa using List.find?_eq_none.1 hf i (by simpa using hi)
  | some k =>
    have h1 := List.find?_some hf
    have h2 : k < 32 := by simpa using List.mem_of_find?_eq_some hf
    refine ⟨h2, h1, fun i hi => ?_⟩
    simp only [Option.getD_some] at hi
    by_cases h32 : i < 32
    · rw [List.find?_eq_some_iff_append] at hf
      obtain ⟨_, as, bs, hab, hn⟩ := hf
      have hrev : (List.range 32) = bs.reverse ++ k :: as.reverse := by
        have := congrArg List.reverse hab
        simpa using this
      have hmem : i ∈ List.range 32 := List.mem_range.2 h32
      have hp : (List.range 32).Pairwise (· < ·) := List.pairwise_lt_range
      rw [hrev] at hmem hp
      rcases List.mem_append.1 hmem with hm | hm
      · have := (List.pairwise_append.1 hp).2.2 i hm k (by simp)
        omega
      · rcases List.mem_cons.1 hm with rfl | hm
        · omega
        · simpa using hn i (by simpa using hm)
    · simp [BitVec.getLsbD_of_ge x i (by omega)]

/-- Bit `i` of a word after a mask is applied (42_mutation R150). -/
theorem applyMask_getLsbD (k : Mutation) (x m : Word) (i : Nat) (hi : i < 32) :
    (applyMask k x m).getLsbD i =
      if m.getLsbD i then (match k with | .setBits => true | .unsetBits => false | .toggleBits => !x.getLsbD i)
      else x.getLsbD i := by
  cases k <;> cases hm : m.getLsbD i <;> cases hx : x.getLsbD i <;>
    simp [applyMask, BitVec.getLsbD_or, BitVec.getLsbD_and, BitVec.getLsbD_xor, BitVec.getLsbD_not, -BitVec.getLsbD_eq_getElem, hm, hx, hi]

end Sys2Proof.Machine
end

