-- ==== Sys2Proof/Laws/Commands.lean ====
section
/-! SUPPORT. What the shared operations behind the scans, the mutators, the algebra and the codec do to sizes, words and
bits, each said once (41_bitscan R124, R129; 42_mutation R150, R156; 43_algebra R170, R177; 44_codec R204). -/

namespace Sys2Proof.Machine

/-! ### Words and sizes of the vectors the commands build -/

theorem PackedVector.word_of_lt (v : PackedVector) (k : Nat) (h : k < v.words.length) : v.word k = v.words[k] := by
  simp [PackedVector.word, h]

@[simp] theorem PackedVector.pointed_maxBit (v : PackedVector) (c : Mutation) (w b : Nat) :
    (v.pointed c w b).maxBit = v.maxBit := rfl
@[simp] theorem PackedVector.pointed_nwords (v : PackedVector) (c : Mutation) (w b : Nat) :
    (v.pointed c w b).nwords = v.nwords := by simp [PackedVector.pointed, PackedVector.nwords]
@[simp] theorem PackedVector.ranged_maxBit (v : PackedVector) (c : Mutation) (lo hi : Nat) :
    (v.ranged c lo hi).maxBit = v.maxBit := rfl
@[simp] theorem PackedVector.ranged_nwords (v : PackedVector) (c : Mutation) (lo hi : Nat) :
    (v.ranged c lo hi).nwords = v.nwords := by simp [PackedVector.ranged, PackedVector.nwords]
@[simp] theorem PackedVector.combine_maxBit (v : PackedVector) (f : Word → Word → Word) (ws : List Word) :
    (v.combine f ws).maxBit = v.maxBit := rfl
@[simp] theorem PackedVector.combine_nwords (v : PackedVector) (f : Word → Word → Word) (ws : List Word) :
    (v.combine f ws).nwords = min v.nwords ws.length := by simp [PackedVector.combine, PackedVector.nwords]
@[simp] theorem PackedVector.onehotWords_length (v : PackedVector) (w b : Nat) :
    (v.onehotWords w b).length = v.nwords := by simp [PackedVector.onehotWords]

/-- A point mutator changes exactly one word. -/
theorem PackedVector.pointed_word (v : PackedVector) (c : Mutation) (w b k : Nat) (h : k < v.nwords) :
    (v.pointed c w b).word k = if k = w then applyMask c (v.word k) (onehot b) else v.word k := by
  unfold PackedVector.nwords at h
  by_cases hk : k = w
  · subst hk
    simp [PackedVector.pointed, PackedVector.word, h]
  · have hw : ¬ w = k := fun e => hk e.symm
    simp [PackedVector.pointed, PackedVector.word, hk, hw, h]

/-- A range mutator changes the words between the words of its two ends. -/
theorem PackedVector.ranged_word (v : PackedVector) (c : Mutation) (lo hi k : Nat) (h : k < v.nwords) :
    (v.ranged c lo hi).word k =
      if lo / 31 ≤ k ∧ k ≤ hi / 31 then applyMask c (v.word k) (rangeMask lo hi k) else v.word k := by
  unfold PackedVector.nwords at h
  simp [PackedVector.ranged, PackedVector.word, h]

/-- A word of a combination is the combination of the words. -/
theorem PackedVector.combine_word (v : PackedVector) (f : Word → Word → Word) (ws : List Word) (k : Nat)
    (hv : k < v.nwords) (hw : k < ws.length) : (v.combine f ws).word k = f (v.word k) (ws.getD k 0) := by
  unfold PackedVector.nwords at hv
  simp [PackedVector.combine, PackedVector.word, hv, hw]

theorem PackedVector.onehotWords_getD (v : PackedVector) (w b k : Nat) (h : k < v.nwords) :
    (v.onehotWords w b).getD k 0 = if k = w then onehot b else 0 := by
  simp [PackedVector.onehotWords, h]

/-- The mask of word `i` covers exactly the range's positions in that word, bit 31 never. -/
theorem rangeMask_getLsbD (lo hi i b : Nat) (h : lo ≤ hi) (h1 : lo / 31 ≤ i) (h2 : i ≤ hi / 31) :
    (rangeMask lo hi i).getLsbD b = decide (b < 31 ∧ lo ≤ 31 * i + b ∧ 31 * i + b ≤ hi) := by
  simp only [rangeMask, mask_getLsbD, ← Bool.decide_and]
  refine decide_eq_decide.2 ?_
  split <;> split <;> omega

/-! ### Words as a scan sees them -/

theorem PackedVector.ones_getLsbD (v : PackedVector) (i b : Nat) :
    (v.ones i).getLsbD b = ((v.word i).getLsbD b && decide (b < 31)) := by
  rw [PackedVector.ones, BitVec.getLsbD_and, full_getLsbD]

theorem PackedVector.zeros_getLsbD (v : PackedVector) (i b : Nat) :
    (v.zeros i).getLsbD b = (!(v.word i).getLsbD b && decide (b < 31)) := by
  rw [PackedVector.zeros, BitVec.getLsbD_and, full_getLsbD, BitVec.getLsbD_not]
  by_cases h : b < 31
  · simp [h, show b < 32 by omega]
  · simp [h]

/-- The padding positions of the last word (00_scope R11). -/
theorem PackedVector.padmask_getLsbD (v : PackedVector) (b : Nat) :
    v.padmask.getLsbD b = decide (v.lastLocal < b ∧ b < 31) := by
  have h31 : v.lastLocal < 31 := Nat.mod_lt _ (by decide)
  unfold PackedVector.padmask
  split
  · rename_i h
    rw [show (0 : Word).getLsbD b = false by simp, h]
    simp
    omega
  · rw [mask_getLsbD, ← Bool.decide_and, ← Bool.decide_and]
    refine decide_eq_decide.2 ?_
    omega

/-- Everything a scan can answer: no word shows a bit, or the first that does, in scan order, gives it. -/
theorem scanWords_cases (order : List Nat) (look : Nat → Word) (pos : Word → Nat) :
    (scanWords order look pos = none ∧ ∀ i ∈ order, look i = 0) ∨
      ∃ before i after, order = before ++ i :: after ∧ (∀ j ∈ before, look j = 0) ∧ look i ≠ 0 ∧
        scanWords order look pos = some (pos (look i) + 31 * i) := by
  unfold scanWords
  cases hf : order.find? fun i => look i != 0 with
  | none =>
    refine .inl ⟨rfl, fun i hi => ?_⟩
    simpa using List.find?_eq_none.1 hf i hi
  | some i =>
    rw [List.find?_eq_some_iff_append] at hf
    obtain ⟨hi, before, after, heq, hb⟩ := hf
    refine .inr ⟨before, i, after, heq, fun j hj => ?_, by simpa using hi, rfl⟩
    simpa using hb j hj

/-- Everything the clamp can answer. -/
theorem PackedVector.clamp_cases (v : PackedVector) (r : Option Nat) :
    (v.clamp r = r ∧ ∀ k, r = some k → k ≤ v.mb) ∨ (v.clamp r = none ∧ ∃ k, r = some k ∧ v.mb < k) := by
  cases r with
  | none => exact .inl ⟨rfl, fun k h => by cases h⟩
  | some k =>
    by_cases h : k ≤ v.mb
    · exact .inl ⟨if_pos h, fun j hj => by cases hj; exact h⟩
    · exact .inr ⟨if_neg h, k, rfl, by omega⟩

/-- The words of an upward scan: from the start word to the last, all of them for a negative start. -/
theorem mem_upWords (v : PackedVector) (f : Int) (i : Nat) : i ∈ upWords v f ↔ f ≤ i ∧ i < v.nwords := by
  simp only [upWords, List.mem_range'_1]
  omega

/-- The words of a downward scan: from the start word, or the last where it lies past it, to word 0. -/
theorem mem_downWords (v : PackedVector) (f : Int) (i : Nat) :
    i ∈ downWords v f ↔ (i : Int) ≤ f ∧ i < v.nwords := by
  simp only [downWords, List.mem_reverse, List.mem_range]
  omega

/-! ### Text -/

@[simp] theorem binaryGroup_length (x : Word) : (binaryGroup x).length = 31 := by simp [binaryGroup]

/-- What a `REHYD` build can answer, given the vector it would store (44_codec R220). -/
theorem rehydrated_cases (p : Config.Params) (t : List Byte) :
    (lexText t none [] = none ∧ rehydrated p t = .error .malformedEncoding) ∨
      ∃ nums, lexText t none [] = some nums ∧ rehydrated p t = rebuild p nums := by
  unfold rehydrated
  cases h : lexText t none [] with
  | none => exact .inl ⟨rfl, rfl⟩
  | some nums => exact .inr ⟨nums, rfl, rfl⟩

end Sys2Proof.Machine
end

