-- ==== Sys2Proof/Laws/Memory.lean ====
section
/-! SUPPORT. The text buffer: read after write, and the canonical form is kept by every memory operation. -/

namespace Sys2Proof.Machine

/-! ### Cells -/

theorem lookup_cellsAt (a : Nat) (bs : List Byte) (j : Nat) :
    (cellsAt a bs).lookup j = if a ≤ j then bs[j - a]? else none := by
  induction bs generalizing a with
  | nil => simp [cellsAt]
  | cons b bs ih =>
    rw [cellsAt, List.lookup_cons, ih]
    by_cases h : j = a
    · subst h; simp
    · rw [beq_false_of_ne h]
      by_cases h1 : a ≤ j
      · have h2 : j - a = (j - (a + 1)) + 1 := by omega
        simp [show a + 1 ≤ j by omega, h1, h2]
      · simp [show ¬ a + 1 ≤ j by omega, h1]

theorem lookup_filter_key (m : List Host.Cell) (p : Nat → Bool) (j : Nat) :
    (m.filter (fun c => p c.1)).lookup j = if p j then m.lookup j else none := by
  induction m with
  | nil => simp
  | cons c m ih =>
    obtain ⟨k, b⟩ := c
    by_cases hk : j = k
    · subst hk
      by_cases hp : p j <;> simp [hp, ih]
    · by_cases hp : p k <;> simp [hp, ih, List.lookup_cons, beq_false_of_ne hk]

/-- READ AFTER WRITE: inside the written bytes the byte written, elsewhere the byte as before. -/
theorem memoryRead_memoryWrite (m : List Host.Cell) (a : Nat) (bs : List Byte) (j : Nat) :
    memoryRead (memoryWrite m a bs) j =
      if a ≤ j ∧ j < a + bs.length then bs[j - a]? else memoryRead m j := by
  simp only [memoryRead, memoryWrite, List.lookup_append, lookup_cellsAt,
    lookup_filter_key m (fun k => decide (k < a)), lookup_filter_key m (fun k => decide (a + bs.length ≤ k))]
  by_cases h1 : j < a
  · have h2 : ¬ a ≤ j := by omega
    have h3 : ¬ a + bs.length ≤ j := by omega
    simp [h1, h2, h3]
  · by_cases h3 : a + bs.length ≤ j
    · have h4 : bs[j - a]? = none := by simp; omega
      simp [h1, h3, h4, show ¬ j < a + bs.length by omega]
    · have h2 : a ≤ j := by omega
      simp [h1, h2, h3, show j < a + bs.length by omega]

/-! ### The canonical form -/

theorem risingFrom_iff (a : Nat) (m : List Host.Cell) :
    risingFrom a m = true ↔ (∀ c ∈ m, a ≤ c.1) ∧ m.Pairwise (fun x y => x.1 < y.1) := by
  induction m generalizing a with
  | nil => simp [risingFrom]
  | cons c m ih =>
    simp only [risingFrom, Bool.and_eq_true, decide_eq_true_eq, ih, List.mem_cons, forall_eq_or_imp,
      List.pairwise_cons]
    constructor
    · rintro ⟨h1, h2, h3⟩
      exact ⟨⟨h1, fun d hd => by have := h2 d hd; omega⟩, fun d hd => by have := h2 d hd; omega, h3⟩
    · rintro ⟨⟨h1, _⟩, h3, h4⟩
      exact ⟨h1, fun d hd => by have := h3 d hd; omega, h4⟩

/-- The canonical form says that the addresses rise strictly. -/
theorem memoryWf_iff (m : List Host.Cell) :
    memoryWf m = true ↔ m.Pairwise (fun x y => x.1 < y.1) := by
  simp [memoryWf, risingFrom_iff]

theorem mem_cellsAt {a : Nat} {bs : List Byte} {c : Host.Cell} (h : c ∈ cellsAt a bs) :
    a ≤ c.1 ∧ c.1 < a + bs.length := by
  induction bs generalizing a with
  | nil => simp [cellsAt] at h
  | cons b bs ih =>
    rw [cellsAt, List.mem_cons] at h
    rcases h with rfl | h
    · simp
    · have := ih h
      simp only [List.length_cons]
      omega

theorem cellsAt_rising (a : Nat) (bs : List Byte) :
    (cellsAt a bs).Pairwise (fun x y => x.1 < y.1) := by
  induction bs generalizing a with
  | nil => simp [cellsAt]
  | cons b bs ih =>
    rw [cellsAt, List.pairwise_cons]
    exact ⟨fun d hd => by have := mem_cellsAt hd; simp only; omega, ih (a + 1)⟩

/-- A write keeps the canonical form. -/
theorem memoryWrite_wf (m : List Host.Cell) (a : Nat) (bs : List Byte) (h : memoryWf m = true) :
    memoryWf (memoryWrite m a bs) = true := by
  rw [memoryWf_iff] at h ⊢
  refine List.pairwise_append.2 ⟨List.pairwise_append.2 ⟨h.filter _, cellsAt_rising a bs, ?_⟩, h.filter _, ?_⟩
  · intro x hx y hy
    have h1 := (List.mem_filter.1 hx).2
    have h2 := mem_cellsAt hy
    simp only [decide_eq_true_eq] at h1
    omega
  · intro x hx y hy
    have h2 := (List.mem_filter.1 hy).2
    simp only [decide_eq_true_eq] at h2
    rcases List.mem_append.1 hx with hx | hx
    · have h1 := (List.mem_filter.1 hx).2
      simp only [decide_eq_true_eq] at h1
      omega
    · have h1 := mem_cellsAt hx
      omega

/-- Where the cells of a written memory come from. -/
theorem mem_memoryWrite {m : List Host.Cell} {a : Nat} {bs : List Byte} {c : Host.Cell}
    (h : c ∈ memoryWrite m a bs) : c ∈ m ∨ (a ≤ c.1 ∧ c.1 < a + bs.length) := by
  simp only [memoryWrite, List.mem_append, List.mem_filter] at h
  rcases h with (⟨h, _⟩ | h) | ⟨h, _⟩
  · exact .inl h
  · exact .inr (mem_cellsAt h)
  · exact .inl h

/-! ### The text operations -/

/-- Every text write keeps the canonical form and stays inside the buffer. -/
theorem State.textWrite_text_wf (s : State) (a : Nat) (bs : List Byte)
    (h : memoryWf s.text = true ∧ ∀ c ∈ s.text, c.1 < s.params.textbytes) :
    memoryWf (s.textWrite a bs).text = true ∧
      ∀ c ∈ (s.textWrite a bs).text, c.1 < (s.textWrite a bs).params.textbytes := by
  refine ⟨memoryWrite_wf _ _ _ h.1, fun c hc => ?_⟩
  rcases mem_memoryWrite hc with hc | hc
  · exact h.2 c hc
  · have := hc.2
    simp only [List.length_take, State.textWrite_params] at this ⊢
    omega

/-- A text output keeps the canonical form. -/
theorem State.putText_text_wf (s : State) (t : List Byte)
    (h : memoryWf s.text = true ∧ ∀ c ∈ s.text, c.1 < s.params.textbytes) :
    memoryWf (s.putText t).text = true ∧ ∀ c ∈ (s.putText t).text, c.1 < (s.putText t).params.textbytes :=
  s.textWrite_text_wf 0 t h

/-- A host text write keeps the canonical form. -/
theorem State.hostTextWrite_text_wf (s : State) (i : Nat) (b : Byte)
    (h : memoryWf s.text = true ∧ ∀ c ∈ s.text, c.1 < s.params.textbytes) :
    memoryWf (s.hostTextWrite i b).text = true ∧
      ∀ c ∈ (s.hostTextWrite i b).text, c.1 < (s.hostTextWrite i b).params.textbytes := by
  unfold State.hostTextWrite
  split
  · exact s.textWrite_text_wf i [b] h
  · exact h

/-- A byte write of the bus keeps the canonical form. -/
theorem State.busWriteByte_text_wf (s : State) (o : Nat) (b : Byte)
    (h : memoryWf s.text = true ∧ ∀ c ∈ s.text, c.1 < s.params.textbytes) :
    memoryWf (s.busWriteByte o b).text = true ∧
      ∀ c ∈ (s.busWriteByte o b).text, c.1 < (s.busWriteByte o b).params.textbytes := by
  unfold State.busWriteByte
  split
  · exact s.hostTextWrite_text_wf _ b h
  · exact h

/-- A text byte after a text write that fits the buffer. -/
theorem State.textByte_textWrite (s : State) (a : Nat) (bs : List Byte) (j : Nat)
    (fits : a + bs.length ≤ s.params.textbytes) :
    (s.textWrite a bs).textByte j = if a ≤ j then (bs[j - a]?).getD (s.textByte j) else s.textByte j := by
  have ht : bs.take (s.params.textbytes - a) = bs := List.take_of_length_le (by omega)
  simp only [State.textByte, State.textWrite, ht, memoryRead_memoryWrite]
  by_cases h1 : a ≤ j
  · by_cases h2 : j < a + bs.length
    · have : bs[j - a]? = some (bs[j - a]'(by omega)) := List.getElem?_eq_getElem (by omega)
      simp [h1, h2, this]
    · have : bs[j - a]? = none := by simp; omega
      simp [h1, h2, this]
  · simp [h1]

@[simp] theorem State.textRead_length (s : State) (n : Nat) : (s.textRead n).length = n := by
  simp [State.textRead]

/-- `MemRead(0, n)` right after a text was written at 0. -/
theorem State.textRead_putText (s : State) (t : List Byte) (fits : t.length ≤ s.params.textbytes) :
    (s.putText t).textRead t.length = t := by
  apply List.ext_getElem (by simp)
  intro i h1 h2
  have h : (s.putText t).textByte i = (s.textWrite 0 t).textByte i := rfl
  simp only [State.textRead, List.getElem_map, List.getElem_range, h]
  rw [State.textByte_textWrite s 0 t i (by omega)]
  simp [List.getElem?_eq_getElem h2]

/-- The memory of the reset state is in the canonical form. -/
theorem reset_memoryWf : memoryWf State.reset.text = true := rfl

end Sys2Proof.Machine
end

