-- ==== Sys2Proof/Laws/PerInstr.lean ====
section
/-! SUPPORT. Statements made per instruction, one lemma per constructor. -/

namespace Sys2Proof.Laws.EncodedRow

/-- The encoded word of a command carries its opcode in bits 7:0 (30_encoding R71), and its format and opcode are
those of one row of the opcode map (R75). -/
def Statement (i : Instr) : Prop :=
  opcodeField (encode i) = opcodeOf i ∧
    (opcodeMap.find? fun r => r.opcode == opcodeOf i).map OpcodeRow.format = some (formatOf i)

/-- Bits 7:0 of an encoded word are the opcode: the slot fields stand above them. -/
theorem opcodeField_encode (i : Instr) (h : opcodeOf i < 256) : opcodeField (encode i) = opcodeOf i := by
  have hz : (encode i).extractLsb' 0 8 = BitVec.ofNat 8 (opcodeOf i) := by
    apply BitVec.eq_of_getLsbD_eq
    intro k hk
    simp only [encode, BitVec.getLsbD_extractLsb', BitVec.getLsbD_or, BitVec.getLsbD_shiftLeft, BitVec.getLsbD_ofNat]
    simp [show k < 32 by omega, hk, show k < 12 by omega, show k < 16 by omega]
  rw [opcodeField, hz, BitVec.toNat_ofNat, Nat.mod_eq_of_lt h]

theorem new (d : SlotNo) : Statement (.new d) :=
  ⟨opcodeField_encode _ (by simp [opcodeOf]), rfl⟩

theorem i2w (a : SlotNo) : Statement (.i2w a) :=
  ⟨opcodeField_encode _ (by simp [opcodeOf]), rfl⟩

theorem get (a : SlotNo) : Statement (.get a) :=
  ⟨opcodeField_encode _ (by simp [opcodeOf]), rfl⟩

theorem ffs (a : SlotNo) : Statement (.ffs a) :=
  ⟨opcodeField_encode _ (by simp [opcodeOf]), rfl⟩

theorem ffz (a : SlotNo) : Statement (.ffz a) :=
  ⟨opcodeField_encode _ (by simp [opcodeOf]), rfl⟩

theorem fls (a : SlotNo) : Statement (.fls a) :=
  ⟨opcodeField_encode _ (by simp [opcodeOf]), rfl⟩

theorem flz (a : SlotNo) : Statement (.flz a) :=
  ⟨opcodeField_encode _ (by simp [opcodeOf]), rfl⟩

theorem nextset (a : SlotNo) : Statement (.nextset a) :=
  ⟨opcodeField_encode _ (by simp [opcodeOf]), rfl⟩

theorem nextunset (a : SlotNo) : Statement (.nextunset a) :=
  ⟨opcodeField_encode _ (by simp [opcodeOf]), rfl⟩

theorem prevset (a : SlotNo) : Statement (.prevset a) :=
  ⟨opcodeField_encode _ (by simp [opcodeOf]), rfl⟩

theorem prevunset (a : SlotNo) : Statement (.prevunset a) :=
  ⟨opcodeField_encode _ (by simp [opcodeOf]), rfl⟩

theorem set (a : SlotNo) : Statement (.set a) :=
  ⟨opcodeField_encode _ (by simp [opcodeOf]), rfl⟩

theorem unset (a : SlotNo) : Statement (.unset a) :=
  ⟨opcodeField_encode _ (by simp [opcodeOf]), rfl⟩

theorem toggle (a : SlotNo) : Statement (.toggle a) :=
  ⟨opcodeField_encode _ (by simp [opcodeOf]), rfl⟩

theorem setrange (a : SlotNo) : Statement (.setrange a) :=
  ⟨opcodeField_encode _ (by simp [opcodeOf]), rfl⟩

theorem unsetrange (a : SlotNo) : Statement (.unsetrange a) :=
  ⟨opcodeField_encode _ (by simp [opcodeOf]), rfl⟩

theorem togglerange (a : SlotNo) : Statement (.togglerange a) :=
  ⟨opcodeField_encode _ (by simp [opcodeOf]), rfl⟩

theorem clear (a : SlotNo) : Statement (.clear a) :=
  ⟨opcodeField_encode _ (by simp [opcodeOf]), rfl⟩

theorem clone (d a : SlotNo) : Statement (.clone d a) :=
  ⟨opcodeField_encode _ (by simp [opcodeOf]), rfl⟩

theorem and (d a b : SlotNo) : Statement (.and d a b) :=
  ⟨opcodeField_encode _ (by simp [opcodeOf]), rfl⟩

theorem or (d a b : SlotNo) : Statement (.or d a b) :=
  ⟨opcodeField_encode _ (by simp [opcodeOf]), rfl⟩

theorem xor (d a b : SlotNo) : Statement (.xor d a b) :=
  ⟨opcodeField_encode _ (by simp [opcodeOf]), rfl⟩

theorem andi (d a : SlotNo) : Statement (.andi d a) :=
  ⟨opcodeField_encode _ (by simp [opcodeOf]), rfl⟩

theorem ori (d a : SlotNo) : Statement (.ori d a) :=
  ⟨opcodeField_encode _ (by simp [opcodeOf]), rfl⟩

theorem xori (d a : SlotNo) : Statement (.xori d a) :=
  ⟨opcodeField_encode _ (by simp [opcodeOf]), rfl⟩

theorem card (a : SlotNo) : Statement (.card a) :=
  ⟨opcodeField_encode _ (by simp [opcodeOf]), rfl⟩

theorem isempty (a : SlotNo) : Statement (.isempty a) :=
  ⟨opcodeField_encode _ (by simp [opcodeOf]), rfl⟩

theorem isequal (a b : SlotNo) : Statement (.isequal a b) :=
  ⟨opcodeField_encode _ (by simp [opcodeOf]), rfl⟩

theorem issubset (a b : SlotNo) : Statement (.issubset a b) :=
  ⟨opcodeField_encode _ (by simp [opcodeOf]), rfl⟩

theorem dehyd (a : SlotNo) : Statement (.dehyd a) :=
  ⟨opcodeField_encode _ (by simp [opcodeOf]), rfl⟩

theorem rehyd (d : SlotNo) : Statement (.rehyd d) :=
  ⟨opcodeField_encode _ (by simp [opcodeOf]), rfl⟩

theorem tostr (a : SlotNo) : Statement (.tostr a) :=
  ⟨opcodeField_encode _ (by simp [opcodeOf]), rfl⟩

end Sys2Proof.Laws.EncodedRow
end

