-- ==== Sys2Proof/Laws/Transactions.lean ====
section
/-! SUPPORT. What one input, and one step, can be: the case split of the whole machine said once, and the frame of
each host operation. -/

namespace Sys2Proof.Machine

/-- Everything a step can do: idle, or the head of the pending inputs. -/
theorem step_cases (s : State) :
    (s.pending = [] ∧ step s = .next s) ∨
      ∃ i rest, s.pending = i :: rest ∧ step s = perform i { s with pending := rest } := by
  unfold step
  cases h : s.pending with
  | nil => exact .inl ⟨rfl, rfl⟩
  | cons i rest => exact .inr ⟨i, rest, rfl, rfl⟩

/-- What each kind of input does. -/
@[simp] theorem perform_txn (t : Txn) (s : State) : perform (.txn t) s = performTxn t s := rfl
@[simp] theorem perform_bus (a : BusAccess) (s : State) : perform (.bus a) s = performBus a s := rfl
@[simp] theorem perform_reset (s : State) : perform .reset s = .next s.applyReset := rfl

/-- Everything a `CMD` write can do: the decoder rejects the word, or the command runs. -/
theorem writeCmd_cases (x : Word) (s : State) :
    (∃ e, decode x = .error e ∧ writeCmd x s = .next (State.raise { s with cmd := x } .illegalCommand)) ∨
      ∃ i, decode x = .ok i ∧ writeCmd x s = exec i { s with cmd := x } := by
  unfold writeCmd
  cases h : decode x with
  | error e => exact .inl ⟨e, rfl, rfl⟩
  | ok i => exact .inr ⟨i, rfl, rfl⟩

/-- Everything a register write can do: run a command, or write one of the four host-writable registers, or
nothing. -/
theorem writeReg_cases (r : Reg) (x : Word) (s : State) :
    (r = .cmd ∧ writeReg r x s = writeCmd x s) ∨
      (r = .arg0 ∧ writeReg r x s = .next { s with arg0 := x }) ∨
      (r = .arg1 ∧ writeReg r x s = .next { s with arg1 := x }) ∨
      (r = .status ∧ writeReg r x s = .next (s.writeStatus x)) ∨
      (r = .textlen ∧ writeReg r x s = .next { s with textlen := x }) ∨
      writeReg r x s = .next s := by
  cases r <;> simp [writeReg]

/-- A host text write changes the text and nothing else. -/
theorem State.hostTextWrite_frame (s : State) (i : Nat) (b : Byte) :
    s.hostTextWrite i b = { s with text := (s.hostTextWrite i b).text } := by
  unfold State.hostTextWrite
  split <;> rfl

/-- A bus byte write changes the text and nothing else. -/
theorem State.busWriteByte_frame (s : State) (o : Nat) (b : Byte) :
    s.busWriteByte o b = { s with text := (s.busWriteByte o b).text } := by
  unfold State.busWriteByte
  split
  · exact s.hostTextWrite_frame _ b
  · rfl

/-- Observing bytes is observing them one after another. -/
theorem State.observeBytes_cons (s : State) (b : Byte) (bs : List Byte) :
    s.observeBytes (b :: bs) = (s.observe (.byte b)).observeBytes bs := by
  simp [State.observeBytes, State.observe]

@[simp] theorem State.observeBytes_nil (s : State) : s.observeBytes [] = s := by simp [State.observeBytes]

@[simp] theorem State.busReadBytes_length (s : State) (n o : Nat) : (s.busReadBytes n o).length = n := by
  simp [State.busReadBytes]

/-- A byte read or written in the text window is that text byte's transaction (20_memory R55, R58). -/
theorem State.busReadByte_text (s : State) (i : Nat) : s.busReadByte (textWindow + i) = s.hostTextRead i := by
  simp [State.busReadByte]

theorem State.busWriteByte_text (s : State) (i : Nat) (b : Byte) :
    s.busWriteByte (textWindow + i) b = s.hostTextWrite i b := by
  simp [State.busWriteByte]

/-- Below the text window a byte reads 0 and ignores writes (20_memory R58). -/
theorem State.busReadByte_hole (s : State) (o : Nat) (h : o < textWindow) : s.busReadByte o = 0 := by
  simp [State.busReadByte, Nat.not_le.2 h]

theorem State.busWriteByte_hole (s : State) (o : Nat) (b : Byte) (h : o < textWindow) : s.busWriteByte o b = s := by
  simp [State.busWriteByte, Nat.not_le.2 h]

/-- Everything a bus access can do: a register read or write, byte reads, byte writes, or nothing. -/
theorem performBus_cases (a : BusAccess) (s : State) :
    (∃ r, performBus a s = performTxn (.regRead r) s) ∨ (∃ r x, performBus a s = writeReg r x s) ∨
      (∃ n o, performBus a s = .next (s.observeBytes (s.busReadBytes n o))) ∨
      (∃ n o x, performBus a s = .next (s.busWriteBytes n o x)) ∨ performBus a s = .next s := by
  cases a with
  | read w o =>
    simp only [performBus]
    split
    · exact .inl ⟨_, rfl⟩
    · exact .inr (.inr (.inl ⟨_, _, rfl⟩))
    · exact .inr (.inr (.inr (.inr rfl)))
  | write w o x =>
    simp only [performBus]
    split
    · exact .inr (.inl ⟨_, _, rfl⟩)
    · exact .inr (.inr (.inr (.inl ⟨_, _, _, rfl⟩)))
    · exact .inr (.inr (.inr (.inr rfl)))

end Sys2Proof.Machine
end

