-- ==== Sys2Proof/Tests/Slice0.lean ====
section
/-! SUPPORT. The model's own tests, expected values from 95_test_vectors and the rules' examples, and for every
statement with hypotheses a witness that meets them. Each is one step, or one command, on a small state. -/

namespace Sys2Proof.Tests

open Sys2Proof.Machine

/-! ### Helpers -/

/-- A vector, by `maxBit` and words. -/
def vec (mb : Nat) (ws : List Word) : PackedVector := ⟨BitVec.ofNat 32 mb, ws⟩

/-- Bits 30 to 65 of capacity 100 (42_mutation R158). -/
def vA : PackedVector := vec 99 [0x40000000, 0x7FFFFFFF, 0xF, 0]

/-- Bits 66 to 99 of capacity 100 (95 section 2.3). -/
def vT : PackedVector := vec 99 [0, 0, 0x7FFFFFF0, 0x7F]

/-- Bits 1 to 10 of capacity 100 (43_algebra R173). -/
def vX : PackedVector := vec 99 [0x7FE, 0, 0, 0]

/-- Bits 10 to 33 of capacity 100 (43_algebra R173). -/
def vY : PackedVector := vec 99 [0x7FFFFC00, 7, 0, 0]

/-- A vector of capacity 35 with the padding bits 35 and 39 set (95 section 2.3). -/
def vP : PackedVector := vec 34 [1, 0x110]

/-- The empty vector of capacity 31. -/
def vE : PackedVector := vec 30 [0]

/-- Slots 0 to 4 and 7 hold `vA`, `vT`, `vX`, `vY`, `vP`, `vE`; slots 5 and 6 nothing; arguments `x` and `y`. -/
def st (x y : Int) : State :=
  { ((((((State.reset.putVector 0 vA).putVector 1 vT).putVector 2 vX).putVector 3 vY).putVector 4 vP).putVector 7
      vE) with arg0 := u32 x, arg1 := u32 y, res := 77 }

/-- The same state with `t` in the text buffer. -/
def stText (t : List Byte) : State := (st 0 0).putText t

/-- The characters of a string. -/
def chars (t : String) : List Byte := t.toList.map fun c => BitVec.ofNat 8 c.toNat

/-- `RES` (signed) and `STATUS` after a command. -/
def outcome (o : Host.Outcome State Fault Refusal) : Option (Int × Nat) :=
  match o with
  | .next s => some (s.res.toInt, s.status.toWord.toNat)
  | _ => none

/-- Slot `f` after a command, as `maxBit` and words. -/
def slotAfter (o : Host.Outcome State Fault Refusal) (f : SlotNo) : Option (Nat × List Nat) :=
  match o with
  | .next s => (s.slot f).map fun v => (v.mb, v.words.map BitVec.toNat)
  | _ => none

/-- The text after a command. -/
def textAfter (o : Host.Outcome State Fault Refusal) : Option (List Byte) :=
  match o with
  | .next s => some (s.textRead s.textlen.toNat)
  | _ => none

/-- The exception code after `CMD` is written. -/
def codeOfWrite (x : Word) (s : State) : Option Nat := (outcome (writeCmd x s)).map fun r => r.2 % 16

/-! ### Well-formedness: an ill-formed term for each check -/

theorem test_wellFormed_refuses_D : WellFormed Config.defaultParams (.new 8) = false := by decide
theorem test_wellFormed_refuses_A : WellFormed Config.defaultParams (.clone 7 8) = false := by decide
theorem test_wellFormed_refuses_B : WellFormed Config.defaultParams (.isequal 0 15) = false := by decide
theorem test_wellFormed_accepts : WellFormed Config.defaultParams (.and 7 7 7) = true := by decide

/-! ### Decoding: each word written out from 30_encoding R71 and R75 -/

theorem test_decode_new : decode 0x00000710 = .ok (.new 7) := by decide
theorem test_decode_i2w : decode 0x0000F011 = .ok (.i2w 15) := by decide
theorem test_decode_get : decode 0x00003012 = .ok (.get 3) := by decide
theorem test_decode_ffs : decode 0x00001020 = .ok (.ffs 1) := by decide
theorem test_decode_ffz : decode 0x00002021 = .ok (.ffz 2) := by decide
theorem test_decode_fls : decode 0x00003022 = .ok (.fls 3) := by decide
theorem test_decode_flz : decode 0x00004023 = .ok (.flz 4) := by decide
theorem test_decode_nextset : decode 0x00005024 = .ok (.nextset 5) := by decide
theorem test_decode_nextunset : decode 0x00006025 = .ok (.nextunset 6) := by decide
theorem test_decode_prevset : decode 0x00007026 = .ok (.prevset 7) := by decide
theorem test_decode_prevunset : decode 0x00008027 = .ok (.prevunset 8) := by decide
theorem test_decode_set : decode 0x00009030 = .ok (.set 9) := by decide
theorem test_decode_unset : decode 0x0000A031 = .ok (.unset 10) := by decide
theorem test_decode_toggle : decode 0x0000B032 = .ok (.toggle 11) := by decide
theorem test_decode_setrange : decode 0x0000C034 = .ok (.setrange 12) := by decide
theorem test_decode_unsetrange : decode 0x0000D035 = .ok (.unsetrange 13) := by decide
theorem test_decode_togglerange : decode 0x0000E036 = .ok (.togglerange 14) := by decide
theorem test_decode_clear : decode 0x00001038 = .ok (.clear 1) := by decide
theorem test_decode_clone : decode 0x00001239 = .ok (.clone 2 1) := by decide
theorem test_decode_and : decode 0x00010240 = .ok (.and 2 0 1) := by decide
theorem test_decode_or : decode 0x00054641 = .ok (.or 6 4 5) := by decide
theorem test_decode_xor : decode 0x00032142 = .ok (.xor 1 2 3) := by decide
theorem test_decode_andi : decode 0x00002144 = .ok (.andi 1 2) := by decide
theorem test_decode_ori : decode 0x00003245 = .ok (.ori 2 3) := by decide
theorem test_decode_xori : decode 0x00004346 = .ok (.xori 3 4) := by decide
theorem test_decode_card : decode 0x00001048 = .ok (.card 1) := by decide
theorem test_decode_isempty : decode 0x00006049 = .ok (.isempty 6) := by decide
theorem test_decode_isequal : decode 0x0007604A = .ok (.isequal 6 7) := by decide
theorem test_decode_issubset : decode 0x0001304B = .ok (.issubset 3 1) := by decide
theorem test_decode_dehyd : decode 0x00002050 = .ok (.dehyd 2) := by decide
theorem test_decode_rehyd : decode 0x00000351 = .ok (.rehyd 3) := by decide
theorem test_decode_tostr : decode 0x00001052 = .ok (.tostr 1) := by decide

theorem test_decode_refuses_opcode_0 : decode 0x00000000 = .error .unknownOpcode := by decide
theorem test_decode_refuses_opcode_13 : decode 0x00000013 = .error .unknownOpcode := by decide
theorem test_decode_refuses_unused_D : decode 0x00000F12 = .error .mustBeZero := by decide
theorem test_decode_refuses_reserved : decode 0x00100012 = .error .mustBeZero := by decide
theorem test_encode_and : encode (.and 2 0 1) = 0x00010240 := by decide
theorem test_decodeTableWord_tostr : decodeTableWord 32 0x52 = some (.tostr 0) := by decide

/-! ### The order of the checks (95 section 2.7) -/

theorem test_illegal_before_slotInvalid : codeOfWrite 0x00005F12 (st 0 0) = some 4 := by decide
theorem test_missing_slot : codeOfWrite 0x00008012 (st 0 0) = some 4 := by decide
theorem test_slotInvalid_before_index : codeOfWrite 0x00005012 (st (-1) 0) = some 5 := by decide
theorem test_destination_unchecked : codeOfWrite 0x00000540 (st 0 0) = some 0 := by decide

/-! ### Commands (95 sections 2.2 to 2.6) -/

theorem test_new_zero : slotAfter (execNew 5 (st 0 0)) 5 = some (30, [0]) := by decide
theorem test_new_too_large : outcome (execNew 5 (st 3969 0)) = some (77, 0x106) := by decide
theorem test_i2w_last : outcome (execI2w 0 (st 99 0)) = some (3, 0) := by decide
theorem test_i2w_padding_index : outcome (execI2w 0 (st 123 0)) = some (77, 0x101) := by decide
theorem test_get_set_bit : outcome (execGet 0 (st 65 0)) = some (1, 0) := by decide
theorem test_get_unset_bit : outcome (execGet 0 (st 66 0)) = some (0, 0) := by decide
theorem test_ffs : outcome (execFfs 1 (st 3 0)) = some (93, 0) := by decide
theorem test_ffs_padding_clamped : outcome (execFfs 4 (st 1 0)) = some (-1, 0) := by decide
theorem test_ffz : outcome (execFfz 1 (st 2 0)) = some (62, 0) := by decide
theorem test_ffz_padding_clamped : outcome (execFfz 1 (st 3 0)) = some (-1, 0) := by decide
theorem test_fls_last : outcome (execFls 1 (st 0x7FFFFFFF 0)) = some (99, 0) := by decide
theorem test_fls_reports_padding : outcome (execFls 4 (st 0x7FFFFFFF 0)) = some (39, 0) := by decide
theorem test_flz_last : outcome (execFlz 1 (st 0x7FFFFFFF 0)) = some (65, 0) := by decide
theorem test_flz_padding_forced : outcome (execFlz 4 (st 0x7FFFFFFF 0)) = some (34, 0) := by decide
theorem test_nextset : outcome (execNextset 1 (st 31 0)) = some (66, 0) := by decide
theorem test_nextset_padding_clamped : outcome (execNextset 4 (st 31 0)) = some (-1, 0) := by decide
theorem test_nextunset : outcome (execNextunset 1 (st 65 0)) = some (65, 0) := by decide
theorem test_nextunset_padding_clamped : outcome (execNextunset 1 (st 99 0)) = some (-1, 0) := by decide
theorem test_prevset : outcome (execPrevset 4 (st 34 0)) = some (0, 0) := by decide
theorem test_prevset_none : outcome (execPrevset 1 (st 65 0)) = some (-1, 0) := by decide
theorem test_prevunset : outcome (execPrevunset 1 (st 99 0)) = some (65, 0) := by decide
theorem test_prevunset_out_of_range : outcome (execPrevunset 1 (st (-1) 0)) = some (77, 0x101) := by decide
theorem test_set : slotAfter (execSet 0 (st 99 0)) 0 = some (99, [0x40000000, 0x7FFFFFFF, 0xF, 0x40]) := by decide
theorem test_unset : slotAfter (execUnset 0 (st 62 0)) 0 = some (99, [0x40000000, 0x7FFFFFFF, 14, 0]) := by decide
theorem test_toggle : slotAfter (execToggle 0 (st 30 0)) 0 = some (99, [0, 0x7FFFFFFF, 0xF, 0]) := by decide
theorem test_setrange_swapped : slotAfter (execSetrange 7 (st 7 3)) 7 = some (30, [0xF8]) := by decide
theorem test_setrange_no_partial_write : slotAfter (execSetrange 0 (st 90 100)) 0 =
    some (99, [0x40000000, 0x7FFFFFFF, 0xF, 0]) := by decide
theorem test_unsetrange : slotAfter (execUnsetrange 0 (st 61 31)) 0 = some (99, [0x40000000, 0, 0xF, 0]) := by decide
theorem test_togglerange : slotAfter (execTogglerange 0 (st 0 99)) 0 =
    some (99, [0x3FFFFFFF, 0, 0x7FFFFFF0, 0x7F]) := by decide
theorem test_clear_clears_padding : slotAfter (execClear 4 (st 0 0)) 4 = some (34, [0, 0]) := by decide
theorem test_clone : slotAfter (execClone 5 4 (st 0 0)) 5 = some (34, [1, 0x110]) := by decide
theorem test_and_in_place : slotAfter (execAnd 2 2 3 (st 0 0)) 2 = some (99, [0x400, 0, 0, 0]) := by decide
theorem test_or : slotAfter (execOr 5 2 3 (st 0 0)) 5 = some (99, [0x7FFFFFFE, 7, 0, 0]) := by decide
theorem test_xor : slotAfter (execXor 5 2 3 (st 0 0)) 5 = some (99, [0x7FFFFBFE, 7, 0, 0]) := by decide
theorem test_and_mismatch : outcome (execAnd 5 0 7 (st 0 0)) = some (77, 0x102) := by decide
theorem test_andi : slotAfter (execAndi 5 0 (st 40 0)) 5 = some (99, [0, 0x200, 0, 0]) := by decide
theorem test_ori : slotAfter (execOri 5 0 (st 99 0)) 5 = some (99, [0x40000000, 0x7FFFFFFF, 0xF, 0x40]) := by decide
theorem test_xori : slotAfter (execXori 5 0 (st 30 0)) 5 = some (99, [0, 0x7FFFFFFF, 0xF, 0]) := by decide
theorem test_card : outcome (execCard 0 (st 0 0)) = some (36, 0) := by decide
theorem test_card_counts_padding : outcome (execCard 4 (st 0 0)) = some (3, 0) := by decide
theorem test_isempty : outcome (execIsempty 7 (st 0 0)) = some (1, 0) := by decide
theorem test_isequal : outcome (execIsequal 2 3 (st 0 0)) = some (0, 0) := by decide
theorem test_issubset_reflexive : outcome (execIssubset 2 2 (st 0 0)) = some (1, 0) := by decide
theorem test_issubset : outcome (execIssubset 3 2 (st 0 0)) = some (0, 0) := by decide
theorem test_tostr : textAfter (execTostr 7 (st 0 0)) = some (chars "0000000000000000000000000000000") := by decide
theorem test_dehyd : textAfter (execDehyd 0 (st 0 0)) = some (chars "1073741824,2147483647,15,0,99") := by decide
theorem test_dehyd_leading_zeros : textAfter (execDehyd 1 (st 0 0)) = some (chars "2147483632,127,2,99") := by decide
theorem test_rehyd : slotAfter (execRehyd 5 (stText (chars "1,272,0,34"))) 5 = some (34, [1, 0x110]) := by decide
theorem test_rehyd_badCapacity_first : outcome (execRehyd 5 (stText (chars "4294967295,0,99999999"))) =
    some (77, 0x106) := by decide

/-! ### The word unit (95 section 2.1; 41_bitscan R121) -/

theorem test_lsb_msb : lsb 0x00000110 = 4 ∧ msb 0x00000110 = 8 := by decide
theorem test_popcount : popcount 0x55555555 = 16 ∧ (popcountParallel 0x55555555).toNat = 16 := by decide
theorem test_deBruijn_table : ∀ i : Fin 32, deBruijnPosition (1 <<< i.val) = i.val := by decide

/-! ### Transactions (95 section 2.7; 20_memory R54, R58) -/

theorem test_status_write_clears_sticky :
    outcome (writeReg .status 0x100 ((st 0 0).raisedIn .indexOutOfRange)) = some (77, 1) := by decide
theorem test_status_write_ignores_other_bits :
    outcome (writeReg .status 0xF ((st 0 0).raisedIn .indexOutOfRange)) = some (77, 0x101) := by decide
theorem test_valid_register : (st 0 0).readReg .valid = 0x9F := by decide
theorem test_maxBit_register : (st 0 0).readReg (.maxBitOf 4) = 34 ∧ (st 0 0).readReg (.maxBitOf 5) = 0xFFFFFFFF := by
  decide
theorem test_bus_text_little_endian :
    ((stText (chars "1234")).busReadByte 0x1000).toNat = 0x31 ∧
      ((stText (chars "1234")).busWord .word 0x1000).toNat = 0x34333231 := by
  decide
theorem test_bus_misaligned_register : busTarget Config.defaultParams .word 0x002 = .refused := by decide
theorem test_bus_hole : busTarget Config.defaultParams .word 0x01C = .bytes := by decide
theorem test_withFetchWord_runs : outcome (step (State.reset.withFetchWord 32 0x00000012)) = some (0, 0x105) := by decide
theorem test_getIndices : getIndices 4 (st 0 0) = [0] := by decide

end Sys2Proof.Tests
end

