-- ==== Sys2Proof/Tests/Witnesses.lean ====
section
/-! SUPPORT. For every statement with hypotheses, a state and operands that meet all of them together; where a statement
has several clauses, one witness a clause, at a boundary of its range. -/

namespace Sys2Proof.Tests

open Sys2Proof.Machine

/-- `s` about to write `x` to `CMD`. -/
def withCmd (s : State) (x : Word) : State := { s with pending := [.txn (.regWrite .cmd x)] }

/-- The largest legal instance. -/
def largest : Config.Params := ⟨16, 69273666, 2147483646⟩

/-! ### Encoding, steps, transactions -/

theorem witness_IllegalCommandWordRaises_opcode :
    (withCmd (st 0 0) 0xFF).pending = .txn (.regWrite .cmd 0xFF) :: [] ∧
      ¬ LegalCommandWord (withCmd (st 0 0) 0xFF).params 0xFF := ⟨rfl, by decide⟩
theorem witness_IllegalCommandWordRaises_reserved :
    (withCmd (st 0 0) 0x80000012).pending = .txn (.regWrite .cmd 0x80000012) :: [] ∧
      ¬ LegalCommandWord (withCmd (st 0 0) 0x80000012).params 0x80000012 := ⟨rfl, by decide⟩
theorem witness_IllegalCommandWordRaises_unused :
    (withCmd (st 0 0) 0x00010012).pending = .txn (.regWrite .cmd 0x00010012) :: [] ∧
      ¬ LegalCommandWord (withCmd (st 0 0) 0x00010012).params 0x00010012 := ⟨rfl, by decide⟩
theorem witness_IllegalCommandWordRaises_missing :
    (withCmd (st 0 0) 0x00008012).pending = .txn (.regWrite .cmd 0x00008012) :: [] ∧
      ¬ LegalCommandWord (withCmd (st 0 0) 0x00008012).params 0x00008012 := ⟨rfl, by decide⟩
theorem witness_LegalCommandWord : LegalCommandWord (st 0 0).params 0x00007012 := by decide

theorem witness_StepRunsDecodedCommand :
    (withCmd (st 0 0) 0x00007011).pending = .txn (.regWrite .cmd 0x00007011) :: [] ∧
      decode 0x00007011 = .ok (.i2w 7) :=
  ⟨rfl, by decide⟩
theorem witness_StepRunsDecodedCommand_txn :
    ({ st 0 0 with pending := [.txn (.textWrite 4095 0x31)] } : State).pending = .txn (.textWrite 4095 0x31) :: [] :=
  rfl
theorem witness_StepRunsDecodedCommand_bus :
    ({ st 0 0 with pending := [.bus (.read .half 0x1FFF)] } : State).pending = .bus (.read .half 0x1FFF) :: [] := rfl
theorem witness_StepRunsDecodedCommand_reset :
    ({ st 0 0 with pending := [.reset] } : State).pending = .reset :: [] := rfl

theorem witness_IdleEngineHoldsItsState : (st 0 0).pending = [] := rfl

theorem witness_RegisterTransactions : Reg.textbytesR ∉ [Reg.cmd, .arg0, .arg1, .status, .textlen] := by decide

theorem witness_InformationRegisters :
    (st 0 0).params.Legal ∧ (7 : SlotNo).val < (st 0 0).params.nslots ∧ (st 0 0).slot 7 = some vE ∧
      (st 0 0).slot 5 = none ∧ (st 0 0).params.nslots ≤ 8 := by decide

theorem witness_TextTransactions_inside : 4095 < (st 0 0).params.textbytes := by decide
theorem witness_TextTransactions_outside : (st 0 0).params.textbytes ≤ 4096 := by decide

theorem witness_OnlyCommandWritesRaise : ∀ x, Txn.regWrite .status 0x100 ≠ .regWrite .cmd x := by
  intro x h
  cases h

theorem witness_BusRegisterAccesses_word :
    (0x040 + 8 * (7 : SlotNo).val, Reg.maxBitOf 7) ∈
      (if (7 : SlotNo).val < (st 0 0).params.nslots then
        [(0x040 + 8 * (7 : SlotNo).val, Reg.maxBitOf 7), (0x044 + 8 * (7 : SlotNo).val, Reg.nwordsOf 7)] else []) := by
  decide
/-- A word that starts in the hole at `0x01C` and runs into `NSLOTS_R`. -/
theorem witness_BusRegisterAccesses_runsInto :
    ((0x020 : Nat), Reg.nslotsR) ∈ [((0x018 : Nat), Reg.valid), (0x020, .nslotsR)] ∧ 0x01D < 0x020 + 4 ∧
      0x020 < 0x01D + BusWidth.bytes .word ∧ ¬ (BusWidth.word = .word ∧ 0x01D = 0x020) := by decide
/-- The last byte of `CMD`, read as 16 bits. -/
theorem witness_BusRegisterAccesses_narrow :
    3 < 0x000 + 4 ∧ 0x000 < 3 + BusWidth.bytes .half ∧ ¬ (BusWidth.half = .word ∧ 3 = 0x000) := by decide

theorem witness_BusHolesReadZero_reserved :
    ∀ k < BusWidth.bytes .word, (0x01C ≤ 0x01C + k ∧ 0x01C + k < 0x020) ∨ (0x02C ≤ 0x01C + k ∧ 0x01C + k < 0x040) ∨
      (0x040 + 8 * (st 0 0).params.nslots ≤ 0x01C + k ∧ 0x01C + k < 0x1000) := by decide
theorem witness_BusHolesReadZero_beforeSlots :
    ∀ k < BusWidth.bytes .word, (0x01C ≤ 0x03C + k ∧ 0x03C + k < 0x020) ∨ (0x02C ≤ 0x03C + k ∧ 0x03C + k < 0x040) ∨
      (0x040 + 8 * (st 0 0).params.nslots ≤ 0x03C + k ∧ 0x03C + k < 0x1000) := by decide
theorem witness_BusHolesReadZero_missingSlots :
    ∀ k < BusWidth.bytes .word, (0x01C ≤ 0x080 + k ∧ 0x080 + k < 0x020) ∨ (0x02C ≤ 0x080 + k ∧ 0x080 + k < 0x040) ∨
      (0x040 + 8 * (st 0 0).params.nslots ≤ 0x080 + k ∧ 0x080 + k < 0x1000) := by decide
theorem witness_BusHolesReadZero_beforeText :
    ∀ k < BusWidth.bytes .half, (0x01C ≤ 0xFFE + k ∧ 0xFFE + k < 0x020) ∨ (0x02C ≤ 0xFFE + k ∧ 0xFFE + k < 0x040) ∨
      (0x040 + 8 * (st 0 0).params.nslots ≤ 0xFFE + k ∧ 0xFFE + k < 0x1000) := by decide

theorem witness_TextMacroLoadsTheBuffer : (chars "1024,0,99").length ≤ (st 0 0).params.textbytes := by decide

/-! ### Reset and the invariant -/

theorem witness_ResetValues : (7 : SlotNo).val < Config.defaultParams.nslots := by decide

theorem witness_ExternalResetClearsTheBlock :
    ({ st 0 0 with pending := [Input.reset] } : State).pending = .reset :: [] := rfl

theorem witness_ResetHasInvariant : largest.Legal := by decide

theorem witness_state_has_invariant : (st 0 0).Inv := by decide

theorem witness_StepKeepsInvariant :
    (withCmd (st 99 0) 0x00000030).Inv ∧
      ∃ s', step (withCmd (st 99 0) 0x00000030) = .next s' := ⟨by decide, _, rfl⟩

theorem witness_ValidSlotsStayValid :
    (withCmd (st 0 0) 0x00000038).pending.head? ≠ some .reset ∧
      (∃ s', step (withCmd (st 0 0) 0x00000038) = .next s') ∧
      ((withCmd (st 0 0) 0x00000038).slot 0).isSome = true := ⟨by decide, ⟨_, rfl⟩, by decide⟩

theorem witness_CapacityIsFixed :
    (Instr.setrange 4).fields.d = none ∧ (∃ s', exec (.setrange 4) (st 0 34) = .next s') ∧
      (st 0 34).slot 4 = some vP := ⟨rfl, ⟨_, rfl⟩, by decide⟩

/-- Two canonical vectors of one capacity and an invariant state that holds them. -/
def stCanonical : State := (State.reset.putVector 0 vX).putVector 1 vY

theorem witness_CanonicalVectorsStayCanonical :
    stCanonical.Inv ∧ stCanonical.AllCanonical ∧ (∀ d, Instr.and 2 0 1 ≠ .rehyd d) ∧
      (∀ d a b v u, Instr.and 2 0 1 = .and d a b ∨ Instr.and 2 0 1 = .or d a b ∨ Instr.and 2 0 1 = .xor d a b →
        stCanonical.slot a = some v → stCanonical.slot b = some u → v.maxBit = u.maxBit) ∧
      ∃ s', exec (.and 2 0 1) stCanonical = .next s' := by
  refine ⟨by decide, by decide, fun d h => by (cases h), ?_, _, rfl⟩
  intro d a b v u h hv hu
  rcases h with h | h | h <;> cases h
  have h0 : stCanonical.slot 0 = some vX := by decide
  have h1 : stCanonical.slot 1 = some vY := by decide
  rw [h0] at hv
  rw [h1] at hu
  cases hv
  cases hu
  rfl

/-! ### Exceptions -/

theorem witness_ExceptionChangesOnlyStatus :
    exec (.set 0) (st 100 0) = .next ((st 100 0).raisedIn .indexOutOfRange) ∧
      ((st 100 0).raisedIn .indexOutOfRange).status.code = some .indexOutOfRange := ⟨rfl, rfl⟩
theorem witness_ExceptionChangesOnlyStatus_illegal :
    ∃ s', performTxn (.regWrite .cmd 0xFF) (st 0 0) = .next s' ∧ s'.status.code = some .illegalCommand :=
  ⟨_, rfl, rfl⟩

theorem witness_CompletingCommandFrame :
    ∃ s', exec (.clone 5 0) (st 0 0) = .next s' ∧ s'.status.code = none ∧ writtenSlot (.clone 5 0) ≠ some 0 ∧
      writesText (.clone 5 0) = false := ⟨_, rfl, rfl, by decide, rfl⟩

theorem witness_MissingSlotIsIllegal : WellFormed (st 0 0).params (.new 8) = false := by decide

theorem witness_InvalidSourceRaises_invalid :
    WellFormed (st 0 0).params (.and 0 1 5) = true ∧
      ∃ f, ((Instr.and 0 1 5).fields.a = some f ∨ (Instr.and 0 1 5).fields.b = some f) ∧ (st 0 0).slot f = none :=
  ⟨by decide, 5, .inr rfl, by decide⟩

theorem witness_InvalidSourceRaises_valid :
    WellFormed (st 0 0).params (.and 5 1 7) = true ∧
      (∀ f, (Instr.and 5 1 7).fields.a = some f ∨ (Instr.and 5 1 7).fields.b = some f → (st 0 0).slot f ≠ none) ∧
      ∃ s', exec (.and 5 1 7) (st 0 0) = .next s' := by
  refine ⟨by decide, ?_, _, rfl⟩
  intro f h
  rcases h with h | h <;> cases h <;> decide

theorem witness_IndexOutOfRangeRaises_above :
    WellFormed (st 100 0).params (.get 0) = true ∧ (Instr.get 0).fields.a = some 0 ∧ (st 100 0).slot 0 = some vA ∧
      takesIndex (.get 0) = true ∧ (vA.mb : Int) < (st 100 0).arg0.toInt := by decide
theorem witness_IndexOutOfRangeRaises_below :
    WellFormed (st (-1) 0).params (.andi 1 0) = true ∧ (Instr.andi 1 0).fields.a = some 0 ∧
      (st (-1) 0).slot 0 = some vA ∧ takesIndex (.andi 1 0) = true ∧ (st (-1) 0).arg0.toInt < 0 := by decide
theorem witness_IndexOutOfRangeRaises_range_above :
    WellFormed (st 0 100).params (.setrange 0) = true ∧ (Instr.setrange 0).fields.a = some 0 ∧
      (st 0 100).slot 0 = some vA ∧ takesRange (.setrange 0) = true ∧
      (vA.mb : Int) < max (st 0 100).arg0.toInt (st 0 100).arg1.toInt := by decide
theorem witness_IndexOutOfRangeRaises_range_below :
    WellFormed (st 5 (-1)).params (.togglerange 0) = true ∧ (Instr.togglerange 0).fields.a = some 0 ∧
      (st 5 (-1)).slot 0 = some vA ∧ takesRange (.togglerange 0) = true ∧
      min (st 5 (-1)).arg0.toInt (st 5 (-1)).arg1.toInt < 0 := by decide
theorem witness_IndexOutOfRangeRaises_inside :
    WellFormed (st 99 0).params (.andi 1 0) = true ∧ (Instr.andi 1 0).fields.a = some 0 ∧
      (st 99 0).slot 0 = some vA ∧ takesIndex (.andi 1 0) = true ∧ 0 ≤ (st 99 0).arg0.toInt ∧
      (st 99 0).arg0.toInt ≤ vA.mb := by decide
theorem witness_IndexOutOfRangeRaises_range_inside :
    WellFormed (st 99 0).params (.setrange 0) = true ∧ (Instr.setrange 0).fields.a = some 0 ∧
      (st 99 0).slot 0 = some vA ∧ takesRange (.setrange 0) = true ∧
      0 ≤ min (st 99 0).arg0.toInt (st 99 0).arg1.toInt ∧
      max (st 99 0).arg0.toInt (st 99 0).arg1.toInt ≤ vA.mb := by decide
theorem witness_IndexOutOfRangeRaises_fromWord :
    WellFormed (st (-1) 0).params (.flz 0) = true ∧ (Instr.flz 0).fields.a = some 0 ∧
      (st (-1) 0).slot 0 = some vA ∧ takesFromWord (.flz 0) = true := by decide

theorem witness_CapacityMismatchRaises_differ :
    WellFormed (st 0 0).params (.issubset 0 4) = true ∧ checksCapacity (.issubset 0 4) = true ∧
      (Instr.issubset 0 4).fields.a = some 0 ∧ (Instr.issubset 0 4).fields.b = some 4 ∧
      (st 0 0).slot 0 = some vA ∧ (st 0 0).slot 4 = some vP ∧ vA.nwords ≠ vP.nwords := by decide
theorem witness_CapacityMismatchRaises_agree :
    WellFormed (st 0 0).params (.and 5 2 3) = true ∧ checksCapacity (.and 5 2 3) = true ∧
      (Instr.and 5 2 3).fields.a = some 2 ∧ (Instr.and 5 2 3).fields.b = some 3 ∧
      (st 0 0).slot 2 = some vX ∧ (st 0 0).slot 3 = some vY ∧ vX.nwords = vY.nwords := by decide
theorem witness_CapacityMismatchRaises_indexForm :
    ∃ s', exec (.xori 5 0) (st 99 0) = .next s' := ⟨_, rfl⟩

theorem witness_ExceptionsPerCommand :
    exec (.new 0) (st (-1) 0) = .next ((st (-1) 0).raisedIn .badCapacity) ∧
      ((st (-1) 0).raisedIn .badCapacity).status.code = some .badCapacity := ⟨rfl, rfl⟩

/-- As `withCmd (st 99 0) 0x30`, with other bits in slot 0, another `RES` and `STATUS`, and slot 1 gone. -/
def stOther : State :=
  { withCmd ((st 99 0).putVector 0 vX) 0x00000030 with res := 5, status := ⟨some .badCapacity, true⟩ }

theorem witness_RaisingIsAFunctionOfInput :
    (withCmd (st 99 0) 0x30).pending = .txn (.regWrite .cmd 0x30) :: [] ∧
      stOther.pending = .txn (.regWrite .cmd 0x30) :: [] ∧
      (withCmd (st 99 0) 0x30).params = stOther.params ∧ (withCmd (st 99 0) 0x30).arg0 = stOther.arg0 ∧
      (withCmd (st 99 0) 0x30).arg1 = stOther.arg1 ∧ (withCmd (st 99 0) 0x30).textlen = stOther.textlen ∧
      (∀ i < (withCmd (st 99 0) 0x30).textlen.toNat, (withCmd (st 99 0) 0x30).textByte i = stOther.textByte i) ∧
      (∀ i f, decode 0x30 = .ok i → (i.fields.a = some f ∨ i.fields.b = some f) →
        (withCmd (st 99 0) 0x30).shape f = stOther.shape f) ∧
      (∃ s', step (withCmd (st 99 0) 0x30) = .next s') ∧ ∃ t', step stOther = .next t' := by
  refine ⟨rfl, rfl, rfl, rfl, rfl, rfl, fun _ _ => rfl, ?_, ⟨_, rfl⟩, ⟨_, rfl⟩⟩
  intro i f h hf
  have hd : decode 0x30 = .ok (.set 0) := by decide
  rw [hd] at h
  cases h
  rcases hf with hf | hf <;> cases hf
  decide

/-- `GET v0, 100` twice, on a vector of capacity 100. -/
def stTwice : State :=
  { st 100 0 with pending := [.txn (.regWrite .cmd 0x12), .txn (.regWrite .cmd 0x12)] }

theorem witness_RaisingIsAFunctionOfInput_again :
    stTwice.pending = .txn (.regWrite .cmd 0x12) :: .txn (.regWrite .cmd 0x12) :: [] ∧
      ∃ s', step stTwice = .next s' ∧ s'.status.code = some .indexOutOfRange := ⟨rfl, _, rfl, rfl⟩

/-! ### Storage, indexing, scans -/

theorem witness_NewMakesZeroVector_largest :
    (st 3968 0).hasSlot 7 = true ∧
      (3968 : Int) = (if (st 3968 0).arg0.toInt = 0 then 31 else (st 3968 0).arg0.toInt) ∧
      0 ≤ (3968 : Int) ∧ (3968 : Int) ≤ (st 3968 0).params.maxcap := by decide
theorem witness_NewMakesZeroVector_tooLarge :
    (st 3969 0).hasSlot 7 = true ∧
      (3969 : Int) = (if (st 3969 0).arg0.toInt = 0 then 31 else (st 3969 0).arg0.toInt) ∧
      ((st 3969 0).params.maxcap : Int) < 3969 := by decide
theorem witness_NewMakesZeroVector_default :
    (st 0 0).hasSlot 7 = true ∧
      (31 : Int) = (if (st 0 0).arg0.toInt = 0 then 31 else (st 0 0).arg0.toInt) ∧
      0 ≤ (31 : Int) ∧ (31 : Int) ≤ (st 0 0).params.maxcap := by decide
theorem witness_NewMakesZeroVector_negative :
    (st (-2147483648) 0).hasSlot 7 = true ∧
      (-2147483648 : Int) = (if (st (-2147483648) 0).arg0.toInt = 0 then 31 else (st (-2147483648) 0).arg0.toInt) ∧
      (-2147483648 : Int) < 0 := by decide

theorem witness_IndexToWordAndGet_last :
    (st 99 0).Holds 0 vA ∧ 0 ≤ (st 99 0).arg0.toInt ∧ (st 99 0).arg0.toInt ≤ vA.mb := by decide
theorem witness_IndexToWordAndGet_first :
    (st 0 0).Holds 0 vA ∧ 0 ≤ (st 0 0).arg0.toInt ∧ (st 0 0).arg0.toInt ≤ vA.mb := by decide
theorem witness_IndexToWordAndGet_above : (st 100 0).Holds 0 vA ∧ (vA.mb : Int) < (st 100 0).arg0.toInt := by decide
theorem witness_IndexToWordAndGet_below : (st (-1) 0).Holds 0 vA ∧ (st (-1) 0).arg0.toInt < 0 := by decide

theorem witness_DeBruijnLookupFindsTheBit : (0x80000000 : Word) ≠ 0 := by decide

theorem witness_UpwardScansFindTheLeast : (st 3 0).Holds 4 vP ∧ vP.Wf (st 3 0).params := by decide
theorem witness_DownwardScansFindTheGreatest :
    (st 0x7FFFFFFF 0).Holds 4 vP ∧ vP.Wf (st 0x7FFFFFFF 0).params := by decide
theorem witness_NextScansFindTheLeast :
    (st 34 0).Holds 4 vP ∧ vP.Wf (st 34 0).params ∧ 0 ≤ (st 34 0).arg0.toInt ∧ (st 34 0).arg0.toInt ≤ vP.mb := by
  decide
theorem witness_PreviousScansFindTheGreatest :
    (st 0 0).Holds 4 vP ∧ vP.Wf (st 0 0).params ∧ 0 ≤ (st 0 0).arg0.toInt ∧ (st 0 0).arg0.toInt ≤ vP.mb := by decide
theorem witness_GetIndicesListsTheSetIndices :
    (st 0 0).params.Legal ∧ (st 0 0).Holds 1 vT ∧ vT.Wf (st 0 0).params := by decide

/-! ### Mutation, algebra -/

theorem witness_PointMutatorsChangeOneBit :
    (st 99 0).Holds 0 vA ∧ 0 ≤ (st 99 0).arg0.toInt ∧ (st 99 0).arg0.toInt ≤ vA.mb := by decide
theorem witness_RangeMutatorsChangeTheRange :
    (st 99 0).Holds 0 vA ∧ (0 : Int) = min (st 99 0).arg0.toInt (st 99 0).arg1.toInt ∧
      (99 : Int) = max (st 99 0).arg0.toInt (st 99 0).arg1.toInt ∧ (99 : Int) ≤ vA.mb := by decide
theorem witness_TogglingTwiceRestores_point :
    (st 99 (-1)).Holds 0 vA ∧ 0 ≤ (st 99 (-1)).arg0.toInt ∧ (st 99 (-1)).arg0.toInt ≤ vA.mb := by decide
theorem witness_TogglingTwiceRestores_range :
    (st 99 0).Holds 0 vA ∧ 0 ≤ min (st 99 0).arg0.toInt (st 99 0).arg1.toInt ∧
      max (st 99 0).arg0.toInt (st 99 0).arg1.toInt ≤ vA.mb := by decide
theorem witness_RangeIsOrderIndependent_point : (st 7 7).arg0 = (st 7 7).arg1 := rfl
theorem witness_RangeIsOrderIndependent_range :
    (∃ t, exec (.setrange 0) (st 30 65) = .next t) ∧
      (∃ u, exec (.setrange 0) { st 30 65 with arg0 := (st 30 65).arg1, arg1 := (st 30 65).arg0 } = .next u) :=
  ⟨⟨_, rfl⟩, ⟨_, rfl⟩⟩
theorem witness_ClearAndClone : (st 0 0).Holds 4 vP ∧ (st 0 0).hasSlot 5 = true := by decide

theorem witness_AlgebraCombinesBitwise :
    (st 0 0).hasSlot 2 = true ∧ (st 0 0).Holds 2 vX ∧ (st 0 0).Holds 3 vY ∧ vX.nwords = vY.nwords := by decide
theorem witness_IndexFormsCombineWithOneHot :
    (st 99 0).hasSlot 5 = true ∧ (st 99 0).Holds 0 vA ∧ 0 ≤ (st 99 0).arg0.toInt ∧ (st 99 0).arg0.toInt ≤ vA.mb := by
  decide
theorem witness_AlgebraLaws :
    (st 0 0).hasSlot 5 = true ∧ (st 0 0).hasSlot 6 = true ∧ (st 0 0).Holds 0 vA ∧ (st 0 0).Holds 2 vX ∧
      (st 0 0).Holds 3 vY ∧ vA.nwords = vX.nwords ∧ vX.nwords = vY.nwords ∧
      (5 : SlotNo) ≠ 0 ∧ (5 : SlotNo) ≠ 2 ∧ (5 : SlotNo) ≠ 3 ∧ (6 : SlotNo) ≠ 0 ∧ (6 : SlotNo) ≠ 2 ∧
      (6 : SlotNo) ≠ 3 := by decide
/-- The empty vector of capacity 100. -/
def vZ : PackedVector := vec 99 [0, 0, 0, 0]
theorem witness_AlgebraLaws_zero :
    ((st 0 0).putVector 2 vZ).hasSlot 5 = true ∧ ((st 0 0).putVector 2 vZ).hasSlot 6 = true ∧
      ((st 0 0).putVector 2 vZ).Holds 0 vA ∧ ((st 0 0).putVector 2 vZ).Holds 2 vZ ∧
      ((st 0 0).putVector 2 vZ).Holds 3 vY ∧ vA.nwords = vZ.nwords ∧ vZ.nwords = vY.nwords ∧
      (5 : SlotNo) ≠ 0 ∧ (5 : SlotNo) ≠ 2 ∧ (5 : SlotNo) ≠ 3 ∧ (6 : SlotNo) ≠ 0 ∧ (6 : SlotNo) ≠ 2 ∧
      (6 : SlotNo) ≠ 3 ∧ ∀ y ∈ vZ.words, y = 0 :=
  ⟨by decide, by decide, by decide, by decide, by decide, by decide, by decide, by decide, by decide, by decide,
    by decide, by decide, by decide, by simp [vZ, vec]⟩
theorem witness_CardCountsEveryPosition : (st 0 0).Holds 4 vP ∧ vP.Wf (st 0 0).params := by decide
theorem witness_CardEqualsGetIndicesLength :
    (st 0 0).params.Legal ∧ (st 0 0).Holds 1 vT ∧ vT.Wf (st 0 0).params ∧ vT.canonical = true := by decide
theorem witness_PredicatesDecide :
    (st 0 0).Holds 2 vX ∧ (st 0 0).Holds 3 vY ∧ vX.nwords = vY.nwords := by decide
theorem witness_SubsetIsAPartialOrder_antisymmetric :
    ((st 0 0).putVector 3 vX).Holds 2 vX ∧
      exec (.issubset 2 3) ((st 0 0).putVector 3 vX) = .next (((st 0 0).putVector 3 vX).resultIn 1) ∧
      exec (.issubset 3 2) ((st 0 0).putVector 3 vX) = .next (((st 0 0).putVector 3 vX).resultIn 1) :=
  ⟨by decide, rfl, rfl⟩
/-- `vZ`, `vX` and `vX` again, each inside the next. -/
def stChain : State := ((st 0 0).putVector 3 vX).putVector 1 vZ
theorem witness_SubsetIsAPartialOrder_transitive :
    stChain.Holds 1 vZ ∧ exec (.issubset 1 2) stChain = .next (stChain.resultIn 1) ∧
      exec (.issubset 2 3) stChain = .next (stChain.resultIn 1) := ⟨by decide, rfl, rfl⟩

/-! ### Codec -/

theorem witness_TostrWritesTheBits : (st 0 0).params.Legal ∧ (st 0 0).Holds 4 vP ∧ vP.Wf (st 0 0).params := by decide
theorem witness_DehydWritesTheStrippedWords_several :
    (st 0 0).params.Legal ∧ (st 0 0).Holds 1 vT ∧ vT.Wf (st 0 0).params ∧ (0x7FFFFFF0 : Word) ≠ 0 ∧
      (0x7F : Word) ≠ 0 ∧
      vT.words = List.replicate 2 0 ++ (0x7FFFFFF0 :: [] ++ [0x7F]) ++ List.replicate 0 0 := by decide
theorem witness_DehydWritesTheStrippedWords_one :
    (st 0 0).params.Legal ∧ (st 0 0).Holds 2 vX ∧ vX.Wf (st 0 0).params ∧ (0x7FE : Word) ≠ 0 ∧
      vX.words = List.replicate 0 0 ++ [0x7FE] ++ List.replicate 3 0 := by decide
theorem witness_DehydWritesTheStrippedWords_none :
    (st 0 0).params.Legal ∧ (st 0 0).Holds 7 vE ∧ vE.Wf (st 0 0).params ∧ ∀ w ∈ vE.words, w = 0 :=
  ⟨by decide, by decide, by decide, by simp [vE, vec]⟩
theorem witness_DehydLengthBound : Config.defaultParams.Legal ∧ vA.Wf Config.defaultParams := by decide
theorem witness_DehydratedTextIsAKey :
    Config.defaultParams.Legal ∧ vX.Wf Config.defaultParams ∧ vY.Wf Config.defaultParams := by decide

theorem witness_LexicalPassAcceptsTheGrammar :
    (stText []).hasSlot 5 = true ∧ (stText []).textlen.toNat ≤ (stText []).params.textbytes ∧
      ∀ nums, ¬ NumberList ((stText []).textRead (stText []).textlen.toNat) nums := by
  refine ⟨by decide, by decide, ?_⟩
  rintro nums ⟨groups, h1, h2, h3, -⟩
  have h0 : (stText []).textRead (stText []).textlen.toNat = [] := by decide
  rw [h0] at h2
  cases groups with
  | nil => exact h1 rfl
  | cons g gs =>
    have hg := (h3 g (by simp)).1
    cases gs with
    | nil => simp [List.intercalate] at h2; exact hg h2
    | cons g' gs => simp [List.intercalate] at h2

/-- The hypotheses every clause of the statement about `REHYD` shares. -/
abbrev RehydReady (s : State) : Prop :=
  s.params.Legal ∧ s.hasSlot 5 = true ∧ s.textlen.toNat ≤ s.params.textbytes

theorem witness_RehydBuildsTheVector_tooLong :
    ({ st 0 0 with textlen := 4097 } : State).params.Legal ∧ ({ st 0 0 with textlen := 4097 } : State).hasSlot 5 = true ∧
      ({ st 0 0 with textlen := 4097 } : State).params.textbytes <
        ({ st 0 0 with textlen := 4097 } : State).textlen.toNat := by decide
theorem witness_RehydBuildsTheVector_malformed :
    RehydReady (stText []) ∧ lexText ((stText []).textRead (stText []).textlen.toNat) none [] = none := by decide
theorem witness_RehydBuildsTheVector_oneNumber :
    RehydReady (stText (chars "5")) ∧
      lexText ((stText (chars "5")).textRead (stText (chars "5")).textlen.toNat) none [] =
        some [5] := by decide
theorem witness_RehydBuildsTheVector_badCapacity :
    RehydReady (stText (chars "0,3968")) ∧
      lexText ((stText (chars "0,3968")).textRead (stText (chars "0,3968")).textlen.toNat) none [] =
        some ([] ++ [0, 3968]) ∧
      (stText (chars "0,3968")).params.maxcap ≤ 3968 := by decide
theorem witness_RehydBuildsTheVector_tooMany :
    RehydReady (stText (chars "15,4,99")) ∧
      lexText ((stText (chars "15,4,99")).textRead (stText (chars "15,4,99")).textlen.toNat) none [] =
        some ([15] ++ [4, 99]) ∧
      99 < (stText (chars "15,4,99")).params.maxcap ∧ 99 / 31 + 1 < 4 + [15].length := by decide
theorem witness_RehydBuildsTheVector_bit31 :
    RehydReady (stText (chars "2147483648,0,99")) ∧
      lexText ((stText (chars "2147483648,0,99")).textRead (stText (chars "2147483648,0,99")).textlen.toNat) none [] =
        some ([2147483648] ++ [0, 99]) ∧
      99 < (stText (chars "2147483648,0,99")).params.maxcap ∧ ∃ x ∈ [2147483648], 2 ^ 31 ≤ x := by decide
theorem witness_RehydBuildsTheVector_completes :
    RehydReady (stText (chars "15,3,99")) ∧
      lexText ((stText (chars "15,3,99")).textRead (stText (chars "15,3,99")).textlen.toNat) none [] =
        some ([15] ++ [3, 99]) ∧
      99 < (stText (chars "15,3,99")).params.maxcap ∧ 3 + [15].length ≤ 99 / 31 + 1 ∧ ∀ x ∈ [15], x < 2 ^ 31 := by decide

theorem witness_DehydRehydRoundTrip : (st 0 0).Inv ∧ (st 0 0).Holds 4 vP ∧ (st 0 0).hasSlot 7 = true := by decide

end Sys2Proof.Tests
end

/-! ### Illegal command words (30_encoding R76) -/

section

namespace Sys2Proof.Machine

/-! #### The decoder: what an accepted word looks like -/

/-- A word the decoder accepts comes from one row of the opcode map, and agrees with that row on every bit of its
format's mask. -/
theorem decode_ok_inv {x : Word} {i : Instr} (h : decode x = .ok i) :
    ∃ r ∈ opcodeMap, r.opcode = opcodeField x ∧ x &&& formatMask r.format = BitVec.ofNat 32 r.opcode ∧
      i = r.build (fieldD x) (fieldA x) (fieldB x) := by
  unfold decode at h
  split at h
  · cases h
  · next r hr =>
    split at h
    · next hmask =>
      cases h
      exact ⟨r, List.mem_of_find?_eq_some hr, by simpa using List.find?_some hr, hmask, rfl⟩
    · cases h

/-- The command a row builds carries exactly the slot fields of the row's format (R72). -/
theorem fields_build {r : OpcodeRow} (hr : r ∈ opcodeMap) (d a b : SlotNo) :
    (r.build d a b).fields =
      { d := if r.format.usesD then some d else none
        a := if r.format.usesA then some a else none
        b := if r.format.usesB then some b else none } := by
  fin_cases hr <;> rfl

/-- A field that a mask covers whole is 0 in a word whose masked part stands below the field. -/
theorem extractLsb'_eq_zero_of_masked {x m : Word} {n start len : Nat} (h : x &&& m = BitVec.ofNat 32 n)
    (hn : n < 2 ^ start) (hm : m.extractLsb' start len = BitVec.allOnes len) : x.extractLsb' start len = 0 := by
  have hx : x.extractLsb' start len = (BitVec.ofNat 32 n).extractLsb' start len := by
    rw [← h, BitVec.extractLsb'_and, hm, BitVec.and_allOnes]
  rw [hx]
  apply BitVec.eq_of_getLsbD_eq
  intro k _
  have hk : n.testBit (start + k) = false :=
    Nat.testBit_lt_two_pow (hn.trans_le (Nat.pow_le_pow_right (by decide) (Nat.le_add_right start k)))
  simp [BitVec.getLsbD_extractLsb', BitVec.getLsbD_ofNat, hk]

/-- A format's mask covers the reserved bits 31:20 and each slot field the format does not use (R71, R72). -/
theorem formatMask_covers (f : Format) :
    (formatMask f).extractLsb' 20 12 = BitVec.allOnes 12 ∧
      (f.usesD = false → (formatMask f).extractLsb' 8 4 = BitVec.allOnes 4) ∧
      (f.usesA = false → (formatMask f).extractLsb' 12 4 = BitVec.allOnes 4) ∧
      (f.usesB = false → (formatMask f).extractLsb' 16 4 = BitVec.allOnes 4) := by
  cases f <;> decide

/-- A slot field that passes its slot number check where the format uses it, and is 0 where it does not, is legal. -/
theorem fieldLegal_of_slotFieldLegal {p : Config.Params} {uses : Bool} {f : SlotNo}
    (h : slotFieldLegal p (if uses then some f else none) = true) (h0 : uses = false → f.val = 0) :
    fieldLegal p uses f := by
  cases uses with
  | false => exact h0 rfl
  | true => exact of_decide_eq_true h

/-- The decoder excludes conditions (a), (b) and (c) of R76: an accepted word whose command names existing slots only,
which excludes (d), is a legal command word. -/
theorem legalCommandWord_of_decode {p : Config.Params} {x : Word} {i : Instr} (hx : decode x = .ok i)
    (hi : WellFormed p i = true) : LegalCommandWord p x := by
  obtain ⟨r, hr, hop, hmask, rfl⟩ := decode_ok_inv hx
  obtain ⟨hres, hD, hA, hB⟩ := formatMask_covers r.format
  have hlt : r.opcode < 2 ^ 8 := hop ▸ BitVec.isLt _
  have zero {start len : Nat} (hs : 8 ≤ start)
      (hm : (formatMask r.format).extractLsb' start len = BitVec.allOnes len) : x.extractLsb' start len = 0 :=
    extractLsb'_eq_zero_of_masked hmask (hlt.trans_le (Nat.pow_le_pow_right (by decide) hs)) hm
  simp only [WellFormed, fields_build hr, Bool.and_eq_true] at hi
  obtain ⟨⟨hd, ha⟩, hb⟩ := hi
  exact ⟨r, hr, hop, zero (by decide) hres,
    fieldLegal_of_slotFieldLegal hd fun h => by simp [fieldD, zero (by decide) (hD h)],
    fieldLegal_of_slotFieldLegal ha fun h => by simp [fieldA, zero (by decide) (hA h)],
    fieldLegal_of_slotFieldLegal hb fun h => by simp [fieldB, zero (by decide) (hB h)]⟩

/-! #### The commands: a slot field at or above `NSLOTS` (30_encoding R74 step 1, R76 (d)) -/

/-- The slot-number check of the frames is the one `WellFormed` makes. -/
@[simp] theorem State.slotFieldLegal_some (s : State) (f : SlotNo) :
    slotFieldLegal s.params (some f) = s.hasSlot f := rfl

@[simp] theorem slotFieldLegal_none (p : Config.Params) : slotFieldLegal p none = true := rfl

/-! The frame of each format raises when a command with its slot fields is ill-formed. -/

theorem commandD_rejects {i : Instr} {d : SlotNo} {s : State} {rule : Answer}
    (hf : i.fields = { d := some d }) (h : WellFormed s.params i = false) :
    commandD d s rule = .next (s.raise .illegalCommand) := by
  simp only [WellFormed, hf, slotFieldLegal_none, State.slotFieldLegal_some, Bool.and_true] at h
  simp [commandD, h]

theorem commandA_rejects {i : Instr} {a : SlotNo} {s : State} {rule : PackedVector → Answer}
    (hf : i.fields = { a := some a }) (h : WellFormed s.params i = false) :
    commandA a s rule = .next (s.raise .illegalCommand) := by
  simp only [WellFormed, hf, slotFieldLegal_none, State.slotFieldLegal_some, Bool.true_and, Bool.and_true] at h
  simp [commandA, h]

theorem commandAB_rejects {i : Instr} {a b : SlotNo} {s : State} {rule : PackedVector → PackedVector → Answer}
    (hf : i.fields = { a := some a, b := some b }) (h : WellFormed s.params i = false) :
    commandAB a b s rule = .next (s.raise .illegalCommand) := by
  simp only [WellFormed, hf, slotFieldLegal_none, State.slotFieldLegal_some, Bool.true_and] at h
  simp [commandAB, h]

theorem commandDA_rejects {i : Instr} {d a : SlotNo} {s : State} {rule : PackedVector → Answer}
    (hf : i.fields = { d := some d, a := some a }) (h : WellFormed s.params i = false) :
    commandDA d a s rule = .next (s.raise .illegalCommand) := by
  simp only [WellFormed, hf, slotFieldLegal_none, State.slotFieldLegal_some, Bool.and_true] at h
  simp [commandDA, h]

theorem commandDAB_rejects {i : Instr} {d a b : SlotNo} {s : State} {rule : PackedVector → PackedVector → Answer}
    (hf : i.fields = { d := some d, a := some a, b := some b }) (h : WellFormed s.params i = false) :
    commandDAB d a b s rule = .next (s.raise .illegalCommand) := by
  simp only [WellFormed, hf, State.slotFieldLegal_some] at h
  simp [commandDAB, h]

/-- An ill-formed command raises `IllegalCommand` before its own rule runs: each command is its rule inside the frame
of its format. -/
theorem exec_of_not_wellFormed (i : Instr) (s : State) (h : WellFormed s.params i = false) :
    exec i s = .next (s.raise .illegalCommand) := by
  cases i with
  | new d | rehyd d => exact commandD_rejects rfl h
  | clone d a | andi d a | ori d a | xori d a => exact commandDA_rejects rfl h
  | and d a b | or d a b | xor d a b => exact commandDAB_rejects rfl h
  | isequal a b | issubset a b => exact commandAB_rejects rfl h
  | i2w a | get a | ffs a | ffz a | fls a | flz a | nextset a | nextunset a | prevset a | prevunset a | set a | unset a
  | toggle a | setrange a | unsetrange a | togglerange a | clear a | card a | isempty a | dehyd a | tostr a =>
    exact commandA_rejects rfl h

/-! #### The step -/

/-- Raising `e` is the outcome the statements write out (60_exceptions R232). -/
theorem State.raise_eq_raisedIn (s : State) (e : Exc) : s.raise e = s.raisedIn e := rfl

/-- A step whose input is a `CMD` write is that write, in the state that has consumed it. -/
theorem step_of_cmdWrite {s : State} {x : Word} {rest : List Input}
    (h : s.pending = .txn (.regWrite .cmd x) :: rest) : step s = writeCmd x { s with pending := rest } := by
  simp [step, h, performTxn, writeReg]

/-- A `CMD` write of an illegal word raises: the decoder rejects the word, or accepts it and the frame of its command
rejects a slot number. -/
theorem writeCmd_of_illegal {s : State} {x : Word} (hx : ¬ LegalCommandWord s.params x) :
    writeCmd x s = .next (({ s with cmd := x } : State).raisedIn .illegalCommand) := by
  rcases writeCmd_cases x s with ⟨_, -, hw⟩ | ⟨i, hdec, hw⟩
  · rw [hw, State.raise_eq_raisedIn]
  · have hi : WellFormed s.params i = false :=
      Bool.eq_false_iff.2 fun hwf => hx (legalCommandWord_of_decode hdec hwf)
    rw [hw, exec_of_not_wellFormed i { s with cmd := x } hi, State.raise_eq_raisedIn]

/-- Settles O4: every illegal word is caught by the decoder or by the slot-number check. -/
theorem illegalCommandWordRaises : Obligations.IllegalCommandWordRaises := by
  unfold Obligations.IllegalCommandWordRaises
  intro s x rest hp hx
  rw [step_of_cmdWrite hp]
  exact writeCmd_of_illegal hx

end Sys2Proof.Machine

end

/-! ### Decimal numerals and the lexical pass (44_codec R201, R222) -/

section

namespace Sys2Proof.Machine

/-! #### The numeral of a number -/

/-- Every supply of at least `n` digits gives the same numeral: the supply only bounds the recursion. -/
theorem decimalDigits_congr {k m n : Nat} (hk : n ≤ k) (hm : n ≤ m) : decimalDigits k n = decimalDigits m n := by
  induction k generalizing m n with
  | zero =>
    obtain rfl : n = 0 := by omega
    cases m <;> simp [decimalDigits]
  | succ k ih =>
    cases m with
    | zero =>
      obtain rfl : n = 0 := by omega
      simp [decimalDigits]
    | succ m => simp only [decimalDigits, ih (show n / 10 ≤ k by omega) (show n / 10 ≤ m by omega)]

theorem dec_of_lt_ten {n : Nat} (h : n < 10) : dec n = [digit n] := by
  cases n <;> simp [dec, decimalDigits, h]

theorem dec_of_ten_le {n : Nat} (h : 10 ≤ n) : dec n = dec (n / 10) ++ [digit (n % 10)] := by
  obtain ⟨m, rfl⟩ : ∃ m, n = m + 1 := ⟨n - 1, by omega⟩
  have hm : decimalDigits m ((m + 1) / 10) = dec ((m + 1) / 10) := decimalDigits_congr (by omega) le_rfl
  rw [← hm]
  simp [dec, decimalDigits, Nat.not_lt.2 h]

/-- Induction along `dec`: a number below 10, or one whose last digit is taken off. -/
theorem decimal_induction {P : Nat → Prop} (small : ∀ n < 10, P n) (large : ∀ n, 10 ≤ n → P (n / 10) → P n)
    (n : Nat) : P n := by
  induction n using Nat.strong_induction_on with
  | h n ih =>
    rcases Nat.lt_or_ge n 10 with h | h
    · exact small n h
    · exact large n h (ih _ (by omega))

/-! #### Digits and values -/

theorem digit_toNat {d : Nat} (h : d < 10) : (digit d).toNat = 0x30 + d := by
  simp only [digit, BitVec.toNat_ofNat]
  omega

theorem isDigit_digit {d : Nat} (h : d < 10) : isDigit (digit d) := by
  rw [isDigit, digit_toNat h]
  omega

theorem digit_ne_zeroChar {d : Nat} (h : d < 10) (h0 : d ≠ 0) : digit d ≠ 0x30 := by
  intro he
  have ht := digit_toNat h
  rw [he] at ht
  simp at ht
  omega

@[simp] theorem decimalValue_nil : decimalValue [] = 0 := rfl

@[simp] theorem decimalValue_snoc (g : List Byte) (c : Byte) :
    decimalValue (g ++ [c]) = 10 * decimalValue g + (c.toNat - 0x30) := by
  simp [decimalValue]

theorem decimalValue_le_append (p g : List Byte) : decimalValue p ≤ decimalValue (p ++ g) := by
  induction g using List.reverseRecOn with
  | nil => simp
  | append_singleton g c ih =>
    rw [← List.append_assoc, decimalValue_snoc]
    omega

/-! #### The three parts of R201 -/

theorem dec_digits (n : Nat) : ∀ c ∈ dec n, isDigit c := by
  induction n using decimal_induction with
  | small n h =>
    rw [dec_of_lt_ten h]
    simpa using isDigit_digit h
  | large n h ih =>
    rw [dec_of_ten_le h, List.forall_mem_append]
    exact ⟨ih, by simpa using isDigit_digit (Nat.mod_lt n (by decide))⟩

@[simp] theorem decimalValue_dec (n : Nat) : decimalValue (dec n) = n := by
  induction n using decimal_induction with
  | small n h => simp [dec_of_lt_ten h, digit_toNat h, decimalValue]
  | large n h ih =>
    rw [dec_of_ten_le h, decimalValue_snoc, ih, digit_toNat (Nat.mod_lt n (by decide))]
    omega

theorem dec_no_leading_zero {n : Nat} (h0 : n ≠ 0) : ∃ c t, dec n = c :: t ∧ c ≠ 0x30 := by
  induction n using decimal_induction with
  | small n h => exact ⟨digit n, [], dec_of_lt_ten h, digit_ne_zeroChar h h0⟩
  | large n h ih =>
    obtain ⟨c, t, hdec, hc⟩ := ih (by omega)
    exact ⟨c, t ++ [digit (n % 10)], by rw [dec_of_ten_le h, hdec, List.cons_append], hc⟩

/-- Settles O53, part by part, each by induction on the number without its last digit. -/
theorem decimalNumerals : Obligations.DecimalNumerals := by
  unfold Obligations.DecimalNumerals
  intro n
  exact ⟨dec_digits n, decimalValue_dec n, fun h => by rw [h]; rfl, dec_no_leading_zero⟩

/-! #### The grammar, one number at a time -/

/-- A digit string the lexical pass accepts as a number, or can read on to one when it is empty (R222). -/
def FitsWord (g : List Byte) : Prop := (∀ c ∈ g, isDigit c) ∧ decimalValue g < 2 ^ 32

theorem fitsWord_nil : FitsWord [] := ⟨by simp, by simp⟩

/-- A beginning of a string that fits a word fits one too: the value only grows with each digit. -/
theorem FitsWord.of_append {p g : List Byte} (h : FitsWord (p ++ g)) : FitsWord p :=
  ⟨(List.forall_mem_append.1 h.1).1, (decimalValue_le_append p g).trans_lt h.2⟩

/-- The grammar of R222 in the model's `comma` and in `FitsWord`. -/
theorem numberList_iff (t : List Byte) (nums : List Nat) :
    NumberList t nums ↔ ∃ groups : List (List Byte), groups ≠ [] ∧ t = List.intercalate [comma] groups ∧
      (∀ g ∈ groups, g ≠ [] ∧ FitsWord g) ∧ nums = groups.map decimalValue := Iff.rfl

theorem numberList_single {g : List Byte} (h0 : g ≠ []) (hg : FitsWord g) : NumberList g [decimalValue g] :=
  (numberList_iff _ _).2 ⟨[g], by simp, by simp, by simpa using ⟨h0, hg⟩, rfl⟩

theorem numberList_cons {g t : List Byte} {nums : List Nat} (h0 : g ≠ []) (hg : FitsWord g) (h : NumberList t nums) :
    NumberList (g ++ comma :: t) (decimalValue g :: nums) := by
  obtain ⟨groups, hne, rfl, hall, rfl⟩ := (numberList_iff _ _).1 h
  obtain ⟨g', gs, rfl⟩ := List.exists_cons_of_ne_nil hne
  exact (numberList_iff _ _).2
    ⟨g :: g' :: gs, by simp, by simp [List.intercalate_cons_cons], List.forall_mem_cons.2 ⟨⟨h0, hg⟩, hall⟩, rfl⟩

/-! #### The lexical pass after the digits `p` of a number -/

/-- The number being read after the digits `p`: none before the first digit (R220, `cur`). -/
def numberSoFar (p : List Byte) : Option Nat := if p = [] then none else some (decimalValue p)

@[simp] theorem numberSoFar_nil : numberSoFar [] = none := rfl

theorem numberSoFar_of_ne_nil {p : List Byte} (h : p ≠ []) : numberSoFar p = some (decimalValue p) := if_neg h

@[simp] theorem numberSoFar_snoc (p : List Byte) (c : Byte) :
    numberSoFar (p ++ [c]) = some (decimalValue (p ++ [c])) := numberSoFar_of_ne_nil (by simp)

@[simp] theorem numberSoFar_getD (p : List Byte) : (numberSoFar p).getD 0 = decimalValue p := by
  by_cases h : p = []
  · rw [h]; rfl
  · rw [numberSoFar_of_ne_nil h]; rfl

theorem not_isDigit_comma : ¬ isDigit comma := by decide

theorem lexText_nil_iff {p : List Byte} {acc nums : List Nat} :
    lexText [] (numberSoFar p) acc = some nums ↔ p ≠ [] ∧ nums = acc ++ [decimalValue p] := by
  by_cases h : p = []
  · simp [h, lexText]
  · simp [h, numberSoFar_of_ne_nil, lexText, eq_comm]

/-- A digit is added to the number being read, while that fits a word. -/
theorem lexText_digit {c : Byte} (hc : isDigit c) (t p : List Byte) (acc : List Nat) :
    lexText (c :: t) (numberSoFar p) acc =
      if 2 ^ 32 ≤ decimalValue (p ++ [c]) then none else lexText t (numberSoFar (p ++ [c])) acc := by
  simp only [lexText, if_pos hc, numberSoFar_getD, numberSoFar_snoc, decimalValue_snoc, Nat.mul_comm]

/-- A comma ends the number being read, of which there must be a digit. -/
theorem lexText_comma (t p : List Byte) (acc : List Nat) :
    lexText (comma :: t) (numberSoFar p) acc = if p = [] then none else lexText t none (acc ++ [decimalValue p]) := by
  by_cases h : p = []
  · simp [lexText, not_isDigit_comma, h]
  · simp [lexText, not_isDigit_comma, h, numberSoFar_of_ne_nil]

/-- Any other byte is malformed. -/
theorem lexText_other {c : Byte} (hd : ¬ isDigit c) (hc : c ≠ comma) (t : List Byte) (cur : Option Nat)
    (acc : List Nat) : lexText (c :: t) cur acc = none := by
  simp only [lexText, if_neg hd, if_neg hc]

/-- What is read of an accepted text belongs to the grammar, counting the digits `p` of the number begun before it. -/
theorem numberList_of_lexText {t p : List Byte} {acc nums : List Nat} (hp : FitsWord p)
    (h : lexText t (numberSoFar p) acc = some nums) : ∃ ns, NumberList (p ++ t) ns ∧ nums = acc ++ ns := by
  induction t generalizing p acc with
  | nil =>
    obtain ⟨h0, rfl⟩ := lexText_nil_iff.1 h
    exact ⟨[decimalValue p], by simpa using numberList_single h0 hp, rfl⟩
  | cons c t ih =>
    by_cases hd : isDigit c
    · rw [lexText_digit hd] at h
      obtain ⟨hlt, h⟩ := Option.ite_none_left_eq_some.1 h
      have hpc : FitsWord (p ++ [c]) :=
        ⟨List.forall_mem_append.2 ⟨hp.1, by simpa using hd⟩, Nat.lt_of_not_le hlt⟩
      simpa using ih hpc h
    · by_cases hc : c = comma
      · subst hc
        rw [lexText_comma] at h
        obtain ⟨h0, h⟩ := Option.ite_none_left_eq_some.1 h
        obtain ⟨ns, hns, rfl⟩ := ih fitsWord_nil h
        exact ⟨decimalValue p :: ns, numberList_cons h0 hp hns, by simp⟩
      · rw [lexText_other hd hc] at h
        cases h

/-- Reading on through digits that still fit a word. -/
theorem lexText_digits {p g : List Byte} (h : FitsWord (p ++ g)) (t : List Byte) (acc : List Nat) :
    lexText (g ++ t) (numberSoFar p) acc = lexText t (numberSoFar (p ++ g)) acc := by
  induction g generalizing p with
  | nil => simp
  | cons c g ih =>
    rw [List.append_cons] at h ⊢
    obtain ⟨hdig, hlt⟩ := h.of_append
    rw [List.cons_append, lexText_digit (hdig c (by simp)), if_neg (Nat.not_le.2 hlt), ih h]

/-- A text of the grammar is read to its end. -/
theorem lexText_intercalate {groups : List (List Byte)} (hne : groups ≠ [])
    (h : ∀ g ∈ groups, g ≠ [] ∧ FitsWord g) (acc : List Nat) :
    lexText (List.intercalate [comma] groups) none acc = some (acc ++ groups.map decimalValue) := by
  induction groups generalizing acc with
  | nil => exact absurd rfl hne
  | cons g gs ih =>
    obtain ⟨⟨h0, hg⟩, hgs⟩ := List.forall_mem_cons.1 h
    have hread (t : List Byte) : lexText (g ++ t) none acc = lexText t (numberSoFar g) acc :=
      lexText_digits (p := []) hg t acc
    cases gs with
    | nil =>
      rw [List.intercalate_singleton, ← List.append_nil g, hread, List.append_nil]
      exact lexText_nil_iff.2 ⟨h0, rfl⟩
    | cons g' gs =>
      rw [List.intercalate_cons_cons, List.append_assoc, hread, List.singleton_append, lexText_comma, if_neg h0,
        ih (by simp) hgs]
      simp

theorem lexText_eq_some_iff (t : List Byte) (nums : List Nat) : lexText t none [] = some nums ↔ NumberList t nums := by
  constructor
  · intro h
    obtain ⟨ns, hns, rfl⟩ := numberList_of_lexText fitsWord_nil h
    exact hns
  · intro h
    obtain ⟨groups, hne, rfl, hall, rfl⟩ := (numberList_iff _ _).1 h
    exact lexText_intercalate hne hall []

/-- `REHYD` of a text within the buffer that does not decode raises what the decoding answers (R220). -/
theorem exec_rehyd_of_error {d : SlotNo} {s : State} {e : Exc} (hd : s.hasSlot d = true)
    (hlen : s.textlen.toNat ≤ s.params.textbytes)
    (he : rehydrated s.params (s.textRead s.textlen.toNat) = .error e) :
    exec (.rehyd d) s = .next (s.raisedIn e) := by
  change execRehyd d s = _
  rw [execRehyd, commandD_runs d s _ hd, if_neg (Nat.not_lt.2 hlen), he]
  rfl

/-- Settles O58: soundness by induction on the text, completeness by induction on the numbers; a text outside the
grammar is then one the lexical pass refuses. -/
theorem lexicalPassAcceptsTheGrammar : Obligations.LexicalPassAcceptsTheGrammar := by
  unfold Obligations.LexicalPassAcceptsTheGrammar
  refine ⟨lexText_eq_some_iff, fun d s hd hlen hout => ?_⟩
  rcases rehydrated_cases s.params (s.textRead s.textlen.toNat) with ⟨-, he⟩ | ⟨nums, hnums, -⟩
  · exact exec_rehyd_of_error hd hlen he
  · exact absurd ((lexText_eq_some_iff _ nums).1 hnums) (hout nums)

end Sys2Proof.Machine

end

/-! ### Exceptions of commands (60_exceptions R232 to R240) -/

section

namespace Sys2Proof.Machine

/-! #### Which exception a command raises, as a function of what R240 lists -/

/-- The exception a check or a command's own rule answers; `none` where it does not raise. -/
def raisedBy {α : Type} : Except Exc α → Option Exc
  | .error e => some e
  | .ok _ => none

/-- A used source field of the command names a slot that holds no vector (R238). -/
abbrev State.MissesSource (s : State) (i : Instr) : Prop :=
  ∃ f, (i.fields.a = some f ∨ i.fields.b = some f) ∧ s.slot f = none

/-- The shape of the vector in slot `A` of the command. -/
def State.shapeA (s : State) (i : Instr) : Option (Word × Nat) := i.fields.a.bind s.shape

/-- The shape of the vector in slot `B` of the command. -/
def State.shapeB (s : State) (i : Instr) : Option (Word × Nat) := i.fields.b.bind s.shape

/-- The bounds check of the indices `lo` to `hi` in a vector of the given shape (R233). -/
def boundsException (shape : Option (Word × Nat)) (lo hi : Int) : Option Exc :=
  shape.bind fun mn => if lo < 0 ∨ (mn.1.toNat : Int) < hi then some .indexOutOfRange else none

/-- The capacity check of two vectors of the given shapes (R234). -/
def capacityException (sa sb : Option (Word × Nat)) : Option Exc :=
  if sa.map Prod.snd = sb.map Prod.snd then none else some .capacityMismatch

/-- The capacity check of `NEW` (R237). -/
def State.newException (s : State) : Option Exc :=
  if s.operand0 < 0 then some .badCapacity
  else if s.params.maxcap < effectiveCapacity s.operand0 then some .badCapacity
  else none

/-- The checks of `REHYD` (R235, R237). -/
def State.rehydException (s : State) : Option Exc :=
  if s.params.textbytes < s.textlen.toNat then some .malformedEncoding
  else raisedBy (rehydrated s.params (s.textRead s.textlen.toNat))

/-- The checks of the two commands that have checks of their own and no source slot (R235, R237). -/
def State.sourcelessException (s : State) : Instr → Option Exc
  | .new _ => s.newException
  | .rehyd _ => s.rehydException
  | _ => none

/-- What the command's own checks raise, its sources being valid. -/
def State.ownException (s : State) (i : Instr) : Option Exc :=
  if takesIndex i then boundsException (s.shapeA i) s.operand0 s.operand0
  else if takesRange i then
    boundsException (s.shapeA i) (min s.operand0 s.operand1) (max s.operand0 s.operand1)
  else if checksCapacity i then capacityException (s.shapeA i) (s.shapeB i)
  else s.sourcelessException i

/-- What a command raises, in the order of its checks: slot numbers, source validity, its own (30_encoding R74). -/
def State.commandException (s : State) (i : Instr) : Option Exc :=
  if WellFormed s.params i = false then some .illegalCommand
  else if s.MissesSource i then some .slotInvalid
  else s.ownException i

/-- What a write of `x` to `CMD` raises. -/
def State.wordException (s : State) (x : Word) : Option Exc :=
  match decode x with
  | .error _ => some .illegalCommand
  | .ok i => s.commandException i

/-! #### What each check can raise -/

@[simp] theorem raisedBy_error {α : Type} (e : Exc) : raisedBy (.error e : Except Exc α) = some e := rfl
@[simp] theorem raisedBy_ok {α : Type} (x : α) : raisedBy (.ok x : Except Exc α) = none := rfl
@[simp] theorem raisedBy_store (s : State) (f : SlotNo) (v : PackedVector) : raisedBy (store s f v) = none := rfl

theorem State.shape_of_slot {s : State} {f : SlotNo} {v : PackedVector} (h : s.slot f = some v) :
    s.shape f = some (v.maxBit, v.nwords) := by
  simp [State.shape, h]

theorem State.shape_eq_none_iff (s : State) (f : SlotNo) : s.shape f = none ↔ s.slot f = none :=
  Option.map_eq_none_iff

theorem State.shapeA_of_slot {s : State} {i : Instr} {a : SlotNo} {v : PackedVector} (ha : i.fields.a = some a)
    (hv : s.slot a = some v) : s.shapeA i = some (v.maxBit, v.nwords) := by
  simp [State.shapeA, ha, State.shape_of_slot hv]

theorem State.shapeB_of_slot {s : State} {i : Instr} {b : SlotNo} {u : PackedVector} (hb : i.fields.b = some b)
    (hu : s.slot b = some u) : s.shapeB i = some (u.maxBit, u.nwords) := by
  simp [State.shapeB, hb, State.shape_of_slot hu]

theorem boundsException_some (m : Word) (n : Nat) (lo hi : Int) :
    boundsException (some (m, n)) lo hi =
      if lo < 0 ∨ (m.toNat : Int) < hi then some .indexOutOfRange else none := rfl

theorem boundsException_cases (sh : Option (Word × Nat)) (lo hi : Int) :
    boundsException sh lo hi = none ∨ boundsException sh lo hi = some .indexOutOfRange := by
  cases sh with
  | none => exact .inl rfl
  | some mn => exact (ite_eq_or_eq _ _ _).symm

theorem capacityException_some (m m' : Word) (n n' : Nat) :
    capacityException (some (m, n)) (some (m', n')) = if n = n' then none else some .capacityMismatch := by
  simp [capacityException]

theorem capacityException_cases (sa sb : Option (Word × Nat)) :
    capacityException sa sb = none ∨ capacityException sa sb = some .capacityMismatch := ite_eq_or_eq _ _ _

theorem State.newException_cases (s : State) : s.newException = none ∨ s.newException = some .badCapacity := by
  unfold State.newException
  split
  · exact .inr rfl
  · exact (ite_eq_or_eq _ _ _).symm

/-- The checks of a decoded number list raise the two codes of R235 and R237. -/
theorem raisedBy_rebuild_cases (p : Config.Params) (nums : List Nat) :
    raisedBy (rebuild p nums) = none ∨ raisedBy (rebuild p nums) = some .malformedEncoding ∨
      raisedBy (rebuild p nums) = some .badCapacity := by
  simp only [rebuild, apply_ite raisedBy, raisedBy_error, raisedBy_ok]
  split_ifs <;> simp

theorem State.rehydException_cases (s : State) :
    s.rehydException = none ∨ s.rehydException = some .malformedEncoding ∨
      s.rehydException = some .badCapacity := by
  unfold State.rehydException
  split
  · exact .inr (.inl rfl)
  · rcases rehydrated_cases s.params (s.textRead s.textlen.toNat) with ⟨-, he⟩ | ⟨nums, -, he⟩
    · exact .inr (.inl (by rw [he]; rfl))
    · rw [he]
      exact raisedBy_rebuild_cases s.params nums

theorem State.sourcelessException_cases (s : State) (i : Instr) :
    s.sourcelessException i = none ∨ s.sourcelessException i = some .malformedEncoding ∨
      s.sourcelessException i = some .badCapacity := by
  cases i with
  | new d => exact s.newException_cases.imp_right .inr
  | rehyd d => exact s.rehydException_cases
  | _ => exact .inl rfl

/-! #### The command's own checks, by kind of operand -/

theorem takesIndex_of_takesRange {i : Instr} (h : takesRange i = true) : takesIndex i = false := by
  cases i with
  | setrange a | unsetrange a | togglerange a => rfl
  | _ => cases h

theorem takesIndex_takesRange_of_checksCapacity {i : Instr} (h : checksCapacity i = true) :
    takesIndex i = false ∧ takesRange i = false := by
  cases i with
  | and d a b | or d a b | xor d a b | isequal a b | issubset a b => exact ⟨rfl, rfl⟩
  | _ => cases h

theorem State.ownException_of_takesIndex {s : State} {i : Instr} {a : SlotNo} {v : PackedVector}
    (hi : takesIndex i = true) (ha : i.fields.a = some a) (hv : s.slot a = some v) :
    s.ownException i =
      if s.operand0 < 0 ∨ (v.mb : Int) < s.operand0 then some .indexOutOfRange else none := by
  rw [State.ownException, if_pos hi, State.shapeA_of_slot ha hv, boundsException_some, PackedVector.mb]

theorem State.ownException_of_takesRange {s : State} {i : Instr} {a : SlotNo} {v : PackedVector}
    (hi : takesRange i = true) (ha : i.fields.a = some a) (hv : s.slot a = some v) :
    s.ownException i =
      if min s.operand0 s.operand1 < 0 ∨ (v.mb : Int) < max s.operand0 s.operand1 then some .indexOutOfRange
      else none := by
  rw [State.ownException, if_neg (by simp [takesIndex_of_takesRange hi]), if_pos hi, State.shapeA_of_slot ha hv,
    boundsException_some, PackedVector.mb]

theorem State.ownException_of_checksCapacity {s : State} {i : Instr} {a b : SlotNo} {v u : PackedVector}
    (hi : checksCapacity i = true) (ha : i.fields.a = some a) (hb : i.fields.b = some b) (hv : s.slot a = some v)
    (hu : s.slot b = some u) :
    s.ownException i = if v.nwords = u.nwords then none else some .capacityMismatch := by
  obtain ⟨hidx, hrange⟩ := takesIndex_takesRange_of_checksCapacity hi
  rw [State.ownException, if_neg (by simp [hidx]), if_neg (by simp [hrange]), if_pos hi, State.shapeA_of_slot ha hv,
    State.shapeB_of_slot hb hu, capacityException_some]

/-- `SlotInvalid` comes from the check of the sources only. -/
theorem State.ownException_ne_slotInvalid (s : State) (i : Instr) : s.ownException i ≠ some .slotInvalid := by
  unfold State.ownException
  split
  · rcases boundsException_cases (s.shapeA i) s.operand0 s.operand0 with h | h <;> simp [h]
  split
  · rcases boundsException_cases (s.shapeA i) (min s.operand0 s.operand1) (max s.operand0 s.operand1) with h | h <;>
      simp [h]
  split
  · rcases capacityException_cases (s.shapeA i) (s.shapeB i) with h | h <;> simp [h]
  · rcases s.sourcelessException_cases i with h | h | h <;> simp [h]

/-! #### The general checks -/

theorem State.commandException_of_missesSource {s : State} {i : Instr} (hwf : WellFormed s.params i = true)
    (h : s.MissesSource i) : s.commandException i = some .slotInvalid := by
  rw [State.commandException, if_neg (by simp [hwf]), if_pos h]

theorem State.commandException_of_valid {s : State} {i : Instr} (hwf : WellFormed s.params i = true)
    (h : ¬ s.MissesSource i) : s.commandException i = s.ownException i := by
  rw [State.commandException, if_neg (by simp [hwf]), if_neg h]

theorem State.missesSource_of_slotA {s : State} {i : Instr} {a : SlotNo} (ha : i.fields.a = some a)
    (h : s.slot a = none) : s.MissesSource i := ⟨a, .inl ha, h⟩

theorem State.missesSource_of_slotAB {s : State} {i : Instr} {a b : SlotNo} (ha : i.fields.a = some a)
    (hb : i.fields.b = some b) (h : s.slot a = none ∨ s.slot b = none) : s.MissesSource i :=
  h.elim (fun h => ⟨a, .inl ha, h⟩) fun h => ⟨b, .inr hb, h⟩

theorem State.not_missesSource_of_slotA {s : State} {i : Instr} {a : SlotNo} {v : PackedVector}
    (ha : i.fields.a = some a) (hb : i.fields.b = none) (hv : s.slot a = some v) : ¬ s.MissesSource i := by
  simp [State.MissesSource, ha, hb, hv]

theorem State.not_missesSource_of_slotAB {s : State} {i : Instr} {a b : SlotNo} {v u : PackedVector}
    (ha : i.fields.a = some a) (hb : i.fields.b = some b) (hv : s.slot a = some v) (hu : s.slot b = some u) :
    ¬ s.MissesSource i := by
  simp [State.MissesSource, ha, hb, or_and_right, exists_or, hv, hu]

/-! #### How a command ends -/

/-- A command that starts in `s` ends by taking the exception `x`, in `s`, or by completing where `x` is `none`. -/
def EndsIn (s : State) (o : Host.Outcome State Fault Refusal) (x : Option Exc) : Prop :=
  ∃ r : Answer, o = .next (s.finish r) ∧ raisedBy r = x

theorem State.finish_code (s : State) (r : Answer) : (s.finish r).status.code = raisedBy r := by
  rcases s.finish_cases r with ⟨e, rfl, h⟩ | ⟨s', n, rfl, h⟩ <;> simp [h]

theorem EndsIn.code_eq {s s' : State} {o : Host.Outcome State Fault Refusal} {x : Option Exc} (h : EndsIn s o x)
    (ho : o = .next s') : s'.status.code = x := by
  obtain ⟨r, hr, rfl⟩ := h
  obtain rfl : s.finish r = s' := by simpa [ho, eq_comm] using hr
  exact s.finish_code r

theorem EndsIn.exists_next {s : State} {o : Host.Outcome State Fault Refusal} {x : Option Exc} (h : EndsIn s o x) :
    ∃ s', o = .next s' ∧ s'.status.code = x := by
  obtain ⟨r, hr, rfl⟩ := h
  exact ⟨s.finish r, hr, s.finish_code r⟩

theorem EndsIn.raises {s : State} {o : Host.Outcome State Fault Refusal} {e : Exc} (h : EndsIn s o (some e)) :
    o = .next (s.raisedIn e) := by
  obtain ⟨r, hr, he⟩ := h
  rcases s.finish_cases r with ⟨e', rfl, hf⟩ | ⟨s', n, rfl, -⟩
  · obtain rfl : e' = e := by simpa using he
    rw [hr, hf, State.raise_eq_raisedIn]
  · cases he

/-- The code read in `STATUS` tells how the command ended, and so the whole state after an exception. -/
theorem EndsIn.eq_raisedIn {s s' : State} {o : Host.Outcome State Fault Refusal} {x : Option Exc} {e : Exc}
    (h : EndsIn s o x) (ho : o = .next s') (he : s'.status.code = some e) : s' = s.raisedIn e := by
  obtain rfl : some e = x := he.symm.trans (h.code_eq ho)
  simpa [ho] using h.raises

/-! #### The frame of each format runs the general checks -/

theorem State.endsIn_illegal {s : State} {i : Instr} {o : Host.Outcome State Fault Refusal}
    (hwf : WellFormed s.params i = false) (ho : o = .next (s.raise .illegalCommand)) :
    EndsIn s o (s.commandException i) :=
  ⟨.error .illegalCommand, ho, by simp [State.commandException, hwf]⟩

theorem State.endsIn_slotInvalid {s : State} {i : Instr} {o : Host.Outcome State Fault Refusal}
    (hwf : WellFormed s.params i = true) (h : s.MissesSource i) (ho : o = .next (s.raise .slotInvalid)) :
    EndsIn s o (s.commandException i) :=
  ⟨.error .slotInvalid, ho, by rw [State.commandException_of_missesSource hwf h, raisedBy_error]⟩

theorem State.endsIn_own {s : State} {i : Instr} {o : Host.Outcome State Fault Refusal} {r : Answer}
    (hwf : WellFormed s.params i = true) (h : ¬ s.MissesSource i) (ho : o = .next (s.finish r))
    (hr : raisedBy r = s.ownException i) : EndsIn s o (s.commandException i) :=
  ⟨r, ho, by rw [State.commandException_of_valid hwf h, hr]⟩

theorem commandD_endsIn {i : Instr} {d : SlotNo} {s : State} {rule : Answer} (hf : i.fields = { d := some d })
    (hr : raisedBy rule = s.ownException i) : EndsIn s (commandD d s rule) (s.commandException i) := by
  have hwf : WellFormed s.params i = s.hasSlot d := by simp [WellFormed, hf]
  rcases commandD_cases d s rule with ⟨hd, ho⟩ | ⟨hd, ho⟩
  · exact State.endsIn_illegal (hwf.trans hd) ho
  · exact State.endsIn_own (hwf.trans hd) (by simp [hf]) ho hr

theorem commandA_endsIn {i : Instr} {a : SlotNo} {s : State} {rule : PackedVector → Answer}
    (hf : i.fields = { a := some a }) (hr : ∀ v, s.slot a = some v → raisedBy (rule v) = s.ownException i) :
    EndsIn s (commandA a s rule) (s.commandException i) := by
  have hfa : i.fields.a = some a := by rw [hf]
  have hfb : i.fields.b = none := by rw [hf]
  have hwf : WellFormed s.params i = s.hasSlot a := by simp [WellFormed, hf]
  rcases commandA_cases a s rule with ⟨ha, ho⟩ | ⟨ha, hnone, ho⟩ | ⟨ha, v, hv, ho⟩
  · exact State.endsIn_illegal (hwf.trans ha) ho
  · exact State.endsIn_slotInvalid (hwf.trans ha) (State.missesSource_of_slotA hfa hnone) ho
  · exact State.endsIn_own (hwf.trans ha) (State.not_missesSource_of_slotA hfa hfb hv) ho (hr v hv)

theorem commandAB_endsIn {i : Instr} {a b : SlotNo} {s : State} {rule : PackedVector → PackedVector → Answer}
    (hf : i.fields = { a := some a, b := some b })
    (hr : ∀ v u, s.slot a = some v → s.slot b = some u → raisedBy (rule v u) = s.ownException i) :
    EndsIn s (commandAB a b s rule) (s.commandException i) := by
  have hfa : i.fields.a = some a := by rw [hf]
  have hfb : i.fields.b = some b := by rw [hf]
  have hwf : WellFormed s.params i = (s.hasSlot a && s.hasSlot b) := by simp [WellFormed, hf]
  rcases commandAB_cases a b s rule with ⟨hab, ho⟩ | ⟨ha, hb, hnone, ho⟩ | ⟨ha, hb, v, u, hv, hu, ho⟩
  · exact State.endsIn_illegal (hwf.trans (Bool.and_eq_false_iff.2 hab)) ho
  · exact State.endsIn_slotInvalid (by simp [hwf, ha, hb]) (State.missesSource_of_slotAB hfa hfb hnone) ho
  · exact State.endsIn_own (by simp [hwf, ha, hb])
      (State.not_missesSource_of_slotAB hfa hfb hv hu) ho (hr v u hv hu)

theorem commandDA_endsIn {i : Instr} {d a : SlotNo} {s : State} {rule : PackedVector → Answer}
    (hf : i.fields = { d := some d, a := some a })
    (hr : ∀ v, s.slot a = some v → raisedBy (rule v) = s.ownException i) :
    EndsIn s (commandDA d a s rule) (s.commandException i) := by
  have hfa : i.fields.a = some a := by rw [hf]
  have hfb : i.fields.b = none := by rw [hf]
  have hwf : WellFormed s.params i = (s.hasSlot d && s.hasSlot a) := by simp [WellFormed, hf]
  rcases commandDA_cases d a s rule with ⟨hda, ho⟩ | ⟨hd, ha, hnone, ho⟩ | ⟨hd, ha, v, hv, ho⟩
  · exact State.endsIn_illegal (hwf.trans (Bool.and_eq_false_iff.2 hda)) ho
  · exact State.endsIn_slotInvalid (by simp [hwf, hd, ha]) (State.missesSource_of_slotA hfa hnone) ho
  · exact State.endsIn_own (by simp [hwf, hd, ha]) (State.not_missesSource_of_slotA hfa hfb hv) ho (hr v hv)

theorem commandDAB_endsIn {i : Instr} {d a b : SlotNo} {s : State} {rule : PackedVector → PackedVector → Answer}
    (hf : i.fields = { d := some d, a := some a, b := some b })
    (hr : ∀ v u, s.slot a = some v → s.slot b = some u → raisedBy (rule v u) = s.ownException i) :
    EndsIn s (commandDAB d a b s rule) (s.commandException i) := by
  have hfa : i.fields.a = some a := by rw [hf]
  have hfb : i.fields.b = some b := by rw [hf]
  have hwf : WellFormed s.params i = (s.hasSlot d && s.hasSlot a && s.hasSlot b) := by simp [WellFormed, hf]
  rcases commandDAB_cases d a b s rule with ⟨hdab, ho⟩ | ⟨hd, ha, hb, hnone, ho⟩ | ⟨hd, ha, hb, v, u, hv, hu, ho⟩
  · exact State.endsIn_illegal (by simpa only [hwf, Bool.and_eq_false_iff, or_assoc] using hdab) ho
  · exact State.endsIn_slotInvalid (by simp [hwf, hd, ha, hb])
      (State.missesSource_of_slotAB hfa hfb hnone) ho
  · exact State.endsIn_own (by simp [hwf, hd, ha, hb])
      (State.not_missesSource_of_slotAB hfa hfb hv hu) ho (hr v u hv hu)

/-! #### The rule of each command runs its own checks, and no other -/

theorem raisedBy_atIndex (v : PackedVector) (idx : Int) {go : Nat → Nat → Answer}
    (hgo : ∀ w b, raisedBy (go w b) = none) :
    raisedBy (atIndex v idx go) = if idx < 0 ∨ (v.mb : Int) < idx then some .indexOutOfRange else none := by
  rcases atIndex_cases v idx go with ⟨h, he⟩ | ⟨h0, h1, he⟩
  · rw [he, if_pos h, raisedBy_error]
  · rw [he, if_neg (by omega), hgo]

/-- Both ends of a range are in range exactly when the lower is not negative and the upper not above `maxBit`. -/
theorem raisedBy_atIndex_atIndex (v : PackedVector) {lo hi : Int} (h : lo ≤ hi) {go : Nat → Nat → Answer}
    (hgo : ∀ w b, raisedBy (go w b) = none) :
    raisedBy (atIndex v lo fun _ _ => atIndex v hi go) =
      if lo < 0 ∨ (v.mb : Int) < hi then some .indexOutOfRange else none := by
  rcases atIndex_cases v lo fun _ _ => atIndex v hi go with ⟨hlo, he⟩ | ⟨h0, h1, he⟩
  · rw [he, if_pos (by omega), raisedBy_error]
  · rw [he, raisedBy_atIndex v hi hgo]
    exact if_congr (by omega) rfl rfl

theorem raisedBy_sameSize (v u : PackedVector) {go : Answer} (hgo : raisedBy go = none) :
    raisedBy (sameSize v u go) = if v.nwords = u.nwords then none else some .capacityMismatch := by
  rw [sameSize, apply_ite raisedBy, hgo, raisedBy_error]

/-- The rule of an index command raises what the bounds check of its index does. -/
theorem raisedBy_indexRule {i : Instr} {a : SlotNo} {s : State} {v : PackedVector} {go : Nat → Nat → Answer}
    (hi : takesIndex i = true) (ha : i.fields.a = some a) (hv : s.slot a = some v)
    (hgo : ∀ w b, raisedBy (go w b) = none) : raisedBy (atIndex v s.operand0 go) = s.ownException i := by
  rw [raisedBy_atIndex v _ hgo, State.ownException_of_takesIndex hi ha hv]

theorem raisedBy_rangeRule {i : Instr} {a : SlotNo} {s : State} {v : PackedVector} {go : Nat → Nat → Answer}
    (hi : takesRange i = true) (ha : i.fields.a = some a) (hv : s.slot a = some v)
    (hgo : ∀ w b, raisedBy (go w b) = none) :
    raisedBy (atIndex v (min s.operand0 s.operand1) fun _ _ => atIndex v (max s.operand0 s.operand1) go) =
      s.ownException i := by
  rw [raisedBy_atIndex_atIndex v min_le_max hgo, State.ownException_of_takesRange hi ha hv]

theorem raisedBy_binaryRule {i : Instr} {a b : SlotNo} {s : State} {v u : PackedVector} {go : Answer}
    (hi : checksCapacity i = true) (ha : i.fields.a = some a) (hb : i.fields.b = some b) (hv : s.slot a = some v)
    (hu : s.slot b = some u) (hgo : raisedBy go = none) : raisedBy (sameSize v u go) = s.ownException i := by
  rw [raisedBy_sameSize v u hgo, State.ownException_of_checksCapacity hi ha hb hv hu]

theorem execNew_endsIn (d : SlotNo) (s : State) : EndsIn s (execNew d s) (s.commandException (.new d)) := by
  refine commandD_endsIn rfl ?_
  simp only [apply_ite raisedBy, raisedBy_error, raisedBy_store]
  rfl

theorem execRehyd_endsIn (d : SlotNo) (s : State) : EndsIn s (execRehyd d s) (s.commandException (.rehyd d)) := by
  refine commandD_endsIn rfl ?_
  change _ = s.rehydException
  rw [apply_ite raisedBy, raisedBy_error, State.rehydException]
  cases rehydrated s.params (s.textRead s.textlen.toNat) <;> rfl

/-- EVERY COMMAND ends as `commandException` says: the frame of its format makes the general checks, and its rule only
those of its kind of operand. -/
theorem exec_endsIn (i : Instr) (s : State) : EndsIn s (exec i s) (s.commandException i) := by
  cases i with
  | new d => exact execNew_endsIn d s
  | rehyd d => exact execRehyd_endsIn d s
  | i2w a | get a | nextset a | nextunset a | prevset a | prevunset a | set a | unset a | toggle a =>
    exact commandA_endsIn rfl fun _ hv => raisedBy_indexRule rfl rfl hv fun _ _ => rfl
  | andi d a | ori d a | xori d a =>
    exact commandDA_endsIn rfl fun _ hv => raisedBy_indexRule rfl rfl hv fun _ _ => rfl
  | setrange a | unsetrange a | togglerange a =>
    exact commandA_endsIn rfl fun _ hv => raisedBy_rangeRule rfl rfl hv fun _ _ => rfl
  | and d a b | or d a b | xor d a b =>
    exact commandDAB_endsIn rfl fun _ _ hv hu => raisedBy_binaryRule rfl rfl rfl hv hu rfl
  | isequal a b | issubset a b =>
    exact commandAB_endsIn rfl fun _ _ hv hu => raisedBy_binaryRule rfl rfl rfl hv hu rfl
  | ffs a | ffz a | fls a | flz a | clear a | card a | isempty a | dehyd a | tostr a =>
    exact commandA_endsIn rfl fun _ _ => rfl
  | clone d a => exact commandDA_endsIn rfl fun _ _ => rfl

/-- A `CMD` write ends as `wordException` says, in the state that has stored the word. -/
theorem writeCmd_endsIn (x : Word) (s : State) :
    EndsIn { s with cmd := x } (writeCmd x s) (({ s with cmd := x } : State).wordException x) := by
  rcases writeCmd_cases x s with ⟨e, hdec, hw⟩ | ⟨i, hdec, hw⟩
  · exact ⟨.error .illegalCommand, hw, by simp [State.wordException, hdec]⟩
  · rw [hw, State.wordException, hdec]
    exact exec_endsIn i _

/-! #### What whether a command raises depends on -/

/-- The two states agree on all that R240 lists for the command `i`. -/
structure State.AgreesFor (s t : State) (i : Instr) : Prop where
  params : s.params = t.params
  arg0 : s.arg0 = t.arg0
  arg1 : s.arg1 = t.arg1
  textlen : s.textlen = t.textlen
  text : ∀ k < s.textlen.toNat, s.textByte k = t.textByte k
  shape : ∀ f, i.fields.a = some f ∨ i.fields.b = some f → s.shape f = t.shape f

theorem State.AgreesFor.missesSource_iff {s t : State} {i : Instr} (h : s.AgreesFor t i) :
    s.MissesSource i ↔ t.MissesSource i := by
  refine exists_congr fun f => and_congr_right fun hf => ?_
  rw [← State.shape_eq_none_iff, ← State.shape_eq_none_iff, h.shape f hf]

theorem State.AgreesFor.shapeA_eq {s t : State} {i : Instr} (h : s.AgreesFor t i) : s.shapeA i = t.shapeA i :=
  Option.bind_congr fun f hf => h.shape f (.inl hf)

theorem State.AgreesFor.shapeB_eq {s t : State} {i : Instr} (h : s.AgreesFor t i) : s.shapeB i = t.shapeB i :=
  Option.bind_congr fun f hf => h.shape f (.inr hf)

theorem State.AgreesFor.newException_eq {s t : State} {i : Instr} (h : s.AgreesFor t i) :
    s.newException = t.newException := by
  have hop : s.operand0 = t.operand0 := congrArg s32 h.arg0
  rw [State.newException, State.newException, hop, h.params]

theorem State.AgreesFor.rehydException_eq {s t : State} {i : Instr} (h : s.AgreesFor t i) :
    s.rehydException = t.rehydException := by
  have htext : s.textRead s.textlen.toNat = t.textRead s.textlen.toNat :=
    List.map_congr_left fun k hk => h.text k (List.mem_range.1 hk)
  rw [State.rehydException, State.rehydException, htext, h.params, h.textlen]

theorem State.AgreesFor.sourcelessException_eq {s t : State} {i : Instr} (h : s.AgreesFor t i) :
    s.sourcelessException i = t.sourcelessException i := by
  cases i with
  | new d => exact h.newException_eq
  | rehyd d => exact h.rehydException_eq
  | _ => rfl

/-- The command's own checks read only what R240 lists. -/
theorem State.AgreesFor.ownException_eq {s t : State} {i : Instr} (h : s.AgreesFor t i) :
    s.ownException i = t.ownException i := by
  simp only [State.ownException, State.operand0, State.operand1, h.arg0, h.arg1, h.shapeA_eq, h.shapeB_eq,
    h.sourcelessException_eq]

theorem State.AgreesFor.commandException_eq {s t : State} {i : Instr} (h : s.AgreesFor t i) :
    s.commandException i = t.commandException i := by
  simp only [State.commandException, h.params, h.missesSource_iff, h.ownException_eq]

/-- What a `CMD` write raises is a function of what R240 lists for the command it decodes to. -/
theorem State.wordException_congr {s t : State} {x : Word} (h : ∀ i, decode x = .ok i → s.AgreesFor t i) :
    s.wordException x = t.wordException x := by
  unfold State.wordException
  split
  · rfl
  · next i hi => exact (h i hi).commandException_eq

/-! #### The obligations -/

/-- Settles O24: an ending with a code is the exception taken in the state the command started in. -/
theorem exceptionChangesOnlyStatus : Obligations.ExceptionChangesOnlyStatus := by
  unfold Obligations.ExceptionChangesOnlyStatus
  exact ⟨fun i s s' e => (exec_endsIn i s).eq_raisedIn, fun x s s' e => (writeCmd_endsIn x s).eq_raisedIn⟩

/-- Settles O27: the source check stands before the command's own, none of which answers `SlotInvalid`. -/
theorem invalidSourceRaises : Obligations.InvalidSourceRaises := by
  unfold Obligations.InvalidSourceRaises
  intro i s hwf
  have hend := exec_endsIn i s
  refine ⟨fun hmiss => ?_, fun hvalid s' hs' => ?_⟩
  · rw [State.commandException_of_missesSource hwf hmiss] at hend
    exact hend.raises
  · have hsrc : ¬ s.MissesSource i := fun ⟨f, hf, hnone⟩ => hvalid f hf hnone
    rw [State.commandException_of_valid hwf hsrc] at hend
    rw [hend.code_eq hs']
    exact s.ownException_ne_slotInvalid i

/-- The commands with an index, a range or a word number have one source slot. -/
theorem fields_b_of_takes {i : Instr} (h : (takesIndex i || takesRange i || takesFromWord i) = true) :
    i.fields.b = none := by
  cases i with
  | and d a b | or d a b | xor d a b | isequal a b | issubset a b => cases h
  | _ => rfl

/-- A command with one valid source ends as its own checks say. -/
theorem exec_endsIn_own_of_takes {i : Instr} {s : State} {a : SlotNo} {v : PackedVector}
    (hwf : WellFormed s.params i = true) (ha : i.fields.a = some a) (hv : s.slot a = some v)
    (hi : (takesIndex i || takesRange i || takesFromWord i) = true) : EndsIn s (exec i s) (s.ownException i) := by
  have hsrc : ¬ s.MissesSource i := State.not_missesSource_of_slotA ha (fields_b_of_takes hi) hv
  exact State.commandException_of_valid hwf hsrc ▸ exec_endsIn i s

/-- A scan from a word number completes with its result, whatever the number. -/
theorem exec_of_takesFromWord {i : Instr} {s : State} {a : SlotNo} {v : PackedVector}
    (hwf : WellFormed s.params i = true) (ha : i.fields.a = some a) (hv : s.slot a = some v)
    (hi : takesFromWord i = true) : ∃ r, exec i s = .next (s.resultIn r) := by
  cases i with
  | ffs f | ffz f | fls f | flz f =>
    cases ha
    exact ⟨_, commandA_runs a s _ v (by simpa [WellFormed, Instr.fields] using hwf) hv⟩
  | _ => cases hi

/-- Settles O28: with a valid source only the bounds check is left, which raises outside `0 .. maxBit` and nowhere
else. -/
theorem indexOutOfRangeRaises : Obligations.IndexOutOfRangeRaises := by
  unfold Obligations.IndexOutOfRangeRaises
  intro i s a v hwf ha hv
  have index (hi : takesIndex i = true) : EndsIn s (exec i s)
      (if s.arg0.toInt < 0 ∨ (v.mb : Int) < s.arg0.toInt then some .indexOutOfRange else none) :=
    State.ownException_of_takesIndex hi ha hv ▸ exec_endsIn_own_of_takes hwf ha hv (by simp [hi])
  have range (hi : takesRange i = true) : EndsIn s (exec i s)
      (if min s.arg0.toInt s.arg1.toInt < 0 ∨ (v.mb : Int) < max s.arg0.toInt s.arg1.toInt then
        some .indexOutOfRange else none) :=
    State.ownException_of_takesRange hi ha hv ▸ exec_endsIn_own_of_takes hwf ha hv (by simp [hi])
  refine ⟨fun hi hout => ?_, fun hi h0 h1 => ?_, fun hi hout => ?_, fun hi h0 h1 => ?_,
    exec_of_takesFromWord hwf ha hv⟩
  · exact (if_pos hout ▸ index hi).raises
  · exact (if_neg (not_or.2 ⟨h0.not_gt, h1.not_gt⟩) ▸ index hi).exists_next
  · exact (if_pos hout ▸ range hi).raises
  · exact (if_neg (not_or.2 ⟨h0.not_gt, h1.not_gt⟩) ▸ range hi).exists_next

/-- A command with an index raises no `CapacityMismatch`: past the general checks it has the bounds check only. -/
theorem State.commandException_ne_capacityMismatch {s : State} {i : Instr} (hi : takesIndex i = true) :
    s.commandException i ≠ some .capacityMismatch := by
  unfold State.commandException
  split
  · simp
  split
  · simp
  · rw [State.ownException, if_pos hi]
    rcases boundsException_cases (s.shapeA i) s.operand0 s.operand0 with h | h <;> simp [h]

/-- Settles O29: with valid sources the capacity check, on word counts alone, decides how a binary command ends. -/
theorem capacityMismatchRaises : Obligations.CapacityMismatchRaises := by
  unfold Obligations.CapacityMismatchRaises
  constructor
  · intro i s a b v u hwf hi ha hb hv hu
    have hend := exec_endsIn i s
    rw [State.commandException_of_valid hwf (State.not_missesSource_of_slotAB ha hb hv hu),
      State.ownException_of_checksCapacity hi ha hb hv hu] at hend
    exact ⟨fun hne => (if_neg hne ▸ hend).raises, fun heq => (if_pos heq ▸ hend).exists_next⟩
  · have indexForm {i : Instr} {s s' : State} (hi : takesIndex i = true) (h : exec i s = .next s') :
        s'.status.code ≠ some .capacityMismatch :=
      (exec_endsIn i s).code_eq h ▸ State.commandException_ne_capacityMismatch hi
    rintro d a s s' (h | h | h)
    · exact indexForm rfl h
    · exact indexForm rfl h
    · exact indexForm rfl h

/-- Settles O31: `wordException` reads only what R240 lists, and an exception changes nothing of it. -/
theorem raisingIsAFunctionOfInput : Obligations.RaisingIsAFunctionOfInput := by
  unfold Obligations.RaisingIsAFunctionOfInput
  constructor
  · intro s t s' t' x rest rest' hs ht hparams harg0 harg1 hlen htext hshape hs' ht'
    rw [step_of_cmdWrite hs] at hs'
    rw [step_of_cmdWrite ht] at ht'
    rw [(writeCmd_endsIn x _).code_eq hs', (writeCmd_endsIn x _).code_eq ht']
    exact State.wordException_congr fun i hi => ⟨hparams, harg0, harg1, hlen, htext, fun f => hshape i f hi⟩
  · intro s s' x rest e hs hs' he
    rw [step_of_cmdWrite hs] at hs'
    have hend := writeCmd_endsIn x { s with pending := .txn (.regWrite .cmd x) :: rest }
    obtain rfl := hend.eq_raisedIn hs' he
    have hsame := (hend.code_eq hs').symm.trans he
    rw [step_of_cmdWrite (s := State.raisedIn _ e) rfl]
    obtain ⟨s'', hs'', hcode⟩ := (writeCmd_endsIn x _).exists_next
    refine ⟨s'', hs'', hcode.trans (Eq.trans ?_ hsame)⟩
    exact State.wordException_congr fun i _ => ⟨rfl, rfl, rfl, rfl, fun _ _ => rfl, fun _ _ => rfl⟩

end Sys2Proof.Machine

end

/-! ### The encoding, both ways (30_encoding R71, R72, R75, R80) -/

section

namespace Sys2Proof.Machine

/-! #### The opcode map and the commands -/

/-- The row found under a command's opcode builds the command from its own slot fields. -/
theorem row_of_instr (i : Instr) : ∃ r, (opcodeMap.find? fun r => r.opcode == opcodeOf i) = some r ∧
    i = r.build (i.fields.d.getD 0) (i.fields.a.getD 0) (i.fields.b.getD 0) := by
  cases i <;> exact ⟨_, rfl, rfl⟩

/-- Every command is built by a row of the opcode map. -/
theorem exists_row (i : Instr) : ∃ r ∈ opcodeMap, ∃ d a b, i = r.build d a b := by
  obtain ⟨r, hr, hi⟩ := row_of_instr i
  exact ⟨r, List.mem_of_find?_eq_some hr, _, _, _, hi⟩

theorem opcodeOf_build {r : OpcodeRow} (hr : r ∈ opcodeMap) (d a b : SlotNo) :
    opcodeOf (r.build d a b) = r.opcode := by
  fin_cases hr <;> rfl

theorem opcode_lt {r : OpcodeRow} (hr : r ∈ opcodeMap) : r.opcode < 2 ^ 8 := by
  fin_cases hr <;> decide

/-- No two rows share an opcode: looking a row's opcode up finds that row. -/
theorem find_opcode {r : OpcodeRow} (hr : r ∈ opcodeMap) :
    (opcodeMap.find? fun r' => r'.opcode == r.opcode) = some r := by
  fin_cases hr <;> rfl

/-- A row reads the slot fields of its format only. -/
theorem build_congr {r : OpcodeRow} (hr : r ∈ opcodeMap) {d a b d' a' b' : SlotNo}
    (hd : r.format.usesD = true → d = d') (ha : r.format.usesA = true → a = a')
    (hb : r.format.usesB = true → b = b') : r.build d a b = r.build d' a' b' := by
  fin_cases hr <;> simp_all [Format.usesD, Format.usesA, Format.usesB]

/-! #### The words `encode` builds, field by field -/

theorem opcodeOf_lt (i : Instr) : opcodeOf i < 2 ^ 8 := by
  obtain ⟨r, hr, d, a, b, rfl⟩ := exists_row i
  rw [opcodeOf_build hr]
  exact opcode_lt hr

theorem fieldNumber_lt (f : Option SlotNo) : fieldNumber f < 2 ^ 4 := by
  cases f with
  | none => decide
  | some f => exact f.isLt

/-- A field of four bits has no bit from bit 4 on. -/
theorem fieldNumber_testBit_high (f : Option SlotNo) {k : Nat} (hk : 4 ≤ k) : (fieldNumber f).testBit k = false :=
  Nat.testBit_lt_two_pow ((fieldNumber_lt f).trans_le (Nat.pow_le_pow_right (by decide) hk))

/-- An opcode has no bit from bit 8 on. -/
theorem opcodeOf_testBit_high (i : Instr) {k : Nat} (hk : 8 ≤ k) : (opcodeOf i).testBit k = false :=
  Nat.testBit_lt_two_pow ((opcodeOf_lt i).trans_le (Nat.pow_le_pow_right (by decide) hk))

/-- Bit `k` of a command word belongs to the opcode or to one of the three slot fields. -/
theorem encode_getLsbD (i : Instr) {k : Nat} (hk : k < 32) :
    (encode i).getLsbD k = ((opcodeOf i).testBit k ||
      (decide (8 ≤ k) && (fieldNumber i.fields.d).testBit (k - 8)) ||
      (decide (12 ≤ k) && (fieldNumber i.fields.a).testBit (k - 12)) ||
      (decide (16 ≤ k) && (fieldNumber i.fields.b).testBit (k - 16))) := by
  have hsub (n : Nat) : k - n < 32 := by omega
  have hlt (n : Nat) : (!decide (k < n)) = decide (n ≤ k) := by rw [← decide_not, decide_eq_decide, Nat.not_lt]
  simp only [encode, BitVec.getLsbD_or, BitVec.getLsbD_shiftLeft, BitVec.getLsbD_ofNat, hk, hsub, hlt, decide_true,
    Bool.true_and]

/-- Four bits that agree with a slot field's number are that field. -/
theorem extract_field {x : Word} {start : Nat} {f : SlotNo}
    (h : ∀ k < 4, x.getLsbD (start + k) = f.val.testBit k) : (x.extractLsb' start 4).toFin = f := by
  have hx : x.extractLsb' start 4 = BitVec.ofFin f := by
    apply BitVec.eq_of_getLsbD_eq
    intro k hk
    rw [BitVec.getLsbD_extractLsb', decide_eq_true hk, Bool.true_and, h k hk]
    rfl
  rw [hx]

theorem fieldD_encode {i : Instr} {d : SlotNo} (h : i.fields.d = some d) : fieldD (encode i) = d := by
  refine extract_field fun k hk => ?_
  simp [encode_getLsbD i (show 8 + k < 32 by omega), opcodeOf_testBit_high, h, fieldNumber,
    show ¬ 12 ≤ 8 + k by omega, show ¬ 16 ≤ 8 + k by omega]

theorem fieldA_encode {i : Instr} {a : SlotNo} (h : i.fields.a = some a) : fieldA (encode i) = a := by
  refine extract_field fun k hk => ?_
  simp [encode_getLsbD i (show 12 + k < 32 by omega), opcodeOf_testBit_high, fieldNumber_testBit_high, h,
    show (fieldNumber (some a)) = a.val from rfl, show 4 ≤ 12 + k - 8 by omega, show 8 ≤ 12 + k by omega,
    show ¬ 16 ≤ 12 + k by omega]

theorem fieldB_encode {i : Instr} {b : SlotNo} (h : i.fields.b = some b) : fieldB (encode i) = b := by
  refine extract_field fun k hk => ?_
  simp [encode_getLsbD i (show 16 + k < 32 by omega), opcodeOf_testBit_high, fieldNumber_testBit_high, h,
    show (fieldNumber (some b)) = b.val from rfl, show 4 ≤ 16 + k - 8 by omega, show 8 ≤ 16 + k by omega,
    show 4 ≤ 16 + k - 12 by omega]

/-! #### A word is its masked part and the slot fields its format uses -/

/-- The mask of a format leaves out exactly the bits of the slot fields the format uses (R72). -/
theorem formatMask_getLsbD (f : Format) : ∀ k < 32, (formatMask f).getLsbD k =
    !((f.usesD && decide (8 ≤ k ∧ k < 12)) || (f.usesA && decide (12 ≤ k ∧ k < 16)) ||
      (f.usesB && decide (16 ≤ k ∧ k < 20))) := by
  cases f <;> decide

/-- Equal slot fields are equal bits. -/
theorem getLsbD_eq_of_field {x y : Word} {start k : Nat}
    (h : (x.extractLsb' start 4).toFin = (y.extractLsb' start 4).toFin) (h0 : start ≤ k) (h4 : k < start + 4) :
    x.getLsbD k = y.getLsbD k := by
  have hk := congrArg (fun z => BitVec.getLsbD z (k - start)) (BitVec.toFin_inj.1 h)
  simpa [BitVec.getLsbD_extractLsb', show k - start < 4 by omega, show start + (k - start) = k by omega,
    -BitVec.getLsbD_eq_getElem] using hk

/-- Two words that agree on a format's mask and on the slot fields it uses are equal. -/
theorem word_eq_of_fields {x y : Word} (f : Format) (hm : x &&& formatMask f = y &&& formatMask f)
    (hd : f.usesD = true → fieldD x = fieldD y) (ha : f.usesA = true → fieldA x = fieldA y)
    (hb : f.usesB = true → fieldB x = fieldB y) : x = y := by
  apply BitVec.eq_of_getLsbD_eq
  intro k hk
  cases hmask : (formatMask f).getLsbD k with
  | true =>
    have hbit := congrArg (fun z => BitVec.getLsbD z k) hm
    simpa only [BitVec.getLsbD_and, hmask, Bool.and_true] using hbit
  | false =>
    rw [formatMask_getLsbD f k hk] at hmask
    simp only [Bool.not_eq_false', Bool.or_eq_true, Bool.and_eq_true, decide_eq_true_eq] at hmask
    rcases hmask with (⟨hu, h0, h4⟩ | ⟨hu, h0, h4⟩) | ⟨hu, h0, h4⟩
    · exact getLsbD_eq_of_field (hd hu) h0 h4
    · exact getLsbD_eq_of_field (ha hu) h0 h4
    · exact getLsbD_eq_of_field (hb hu) h0 h4

/-- A set bit of a slot field belongs to a used field and to its four bits. -/
theorem fieldNumber_testBit {uses : Bool} {f : SlotNo} {k : Nat}
    (h : (fieldNumber (if uses then some f else none)).testBit k = true) : uses = true ∧ k < 4 := by
  refine ⟨?_, Nat.lt_of_not_le fun hk => by simp [fieldNumber_testBit_high _ hk] at h⟩
  cases uses with
  | false => simp [fieldNumber] at h
  | true => rfl

/-- An encoded command agrees with its opcode on every bit of its format's mask: a slot field stands where the mask
has none, and an unused one is 0. -/
theorem encode_and_mask {r : OpcodeRow} (hr : r ∈ opcodeMap) (d a b : SlotNo) :
    encode (r.build d a b) &&& formatMask r.format = BitVec.ofNat 32 r.opcode := by
  apply BitVec.eq_of_getLsbD_eq
  intro k hk
  rw [BitVec.getLsbD_and, encode_getLsbD _ hk, formatMask_getLsbD _ k hk, BitVec.getLsbD_ofNat, fields_build hr,
    opcodeOf_build hr, decide_eq_true hk, Bool.true_and, Bool.eq_iff_iff]
  simp only [Bool.and_eq_true, Bool.or_eq_true, Bool.not_eq_true', Bool.or_eq_false_iff, Bool.and_eq_false_iff,
    decide_eq_true_eq, decide_eq_false_iff_not]
  constructor
  · rintro ⟨((h | ⟨h0, h⟩) | ⟨h0, h⟩) | ⟨h0, h⟩, hmask⟩
    · exact h
    all_goals
      obtain ⟨hu, h4⟩ := fieldNumber_testBit h
      simp only [hu, Bool.true_eq_false, false_or] at hmask
      omega
  · intro h
    have h8 : k < 8 := Nat.lt_of_not_le fun h8 => by
      simp [← opcodeOf_build hr d a b, opcodeOf_testBit_high _ h8] at h
    exact ⟨.inl (.inl (.inl h)), by omega⟩

/-- Decoding and encoding are inverse to each other: every row of the opcode map reads back the fields it was given,
and a word has nothing but its masked part and those fields. -/
theorem decode_eq_ok_iff (x : Word) (i : Instr) : decode x = .ok i ↔ encode i = x := by
  constructor
  · intro h
    obtain ⟨r, hr, -, hmask, rfl⟩ := decode_ok_inv h
    have hf := fields_build hr (fieldD x) (fieldA x) (fieldB x)
    exact word_eq_of_fields r.format ((encode_and_mask hr _ _ _).trans hmask.symm)
      (fun hu => fieldD_encode (by rw [hf, hu]; rfl)) (fun hu => fieldA_encode (by rw [hf, hu]; rfl))
      (fun hu => fieldB_encode (by rw [hf, hu]; rfl))
  · rintro rfl
    obtain ⟨r, hr, d, a, b, rfl⟩ := exists_row i
    have hf := fields_build hr d a b
    have hop : opcodeField (encode (r.build d a b)) = r.opcode := by
      rw [Laws.EncodedRow.opcodeField_encode _ (opcodeOf_lt _), opcodeOf_build hr]
    have hbuild : r.build (fieldD (encode (r.build d a b))) (fieldA (encode (r.build d a b)))
        (fieldB (encode (r.build d a b))) = r.build d a b :=
      build_congr hr (fun hu => fieldD_encode (by rw [hf, hu]; rfl)) (fun hu => fieldA_encode (by rw [hf, hu]; rfl))
        (fun hu => fieldB_encode (by rw [hf, hu]; rfl))
    simp only [decode, hop, find_opcode hr, encode_and_mask hr, hbuild, if_true]

/-- Settles O2: one direction of `decode_eq_ok_iff`. -/
theorem decodeOfEncode : Obligations.DecodeOfEncode := by
  unfold Obligations.DecodeOfEncode
  exact fun i => (decode_eq_ok_iff _ i).2 rfl

/-- Settles O3: the other direction of `decode_eq_ok_iff`. -/
theorem encodeOfDecode : Obligations.EncodeOfDecode := by
  unfold Obligations.EncodeOfDecode
  exact fun x i => (decode_eq_ok_iff x i).1

/-- Settles O1: each of the seven words is the encoding of its command. -/
theorem decodeReadsTheSpecsWords : Obligations.DecodeReadsTheSpecsWords := by
  unfold Obligations.DecodeReadsTheSpecsWords
  simp only [decode_eq_ok_iff]
  decide

end Sys2Proof.Machine

end

/-! ### The completed states the statements write out (10_state R26, R36) -/

section

namespace Sys2Proof.Machine

theorem State.complete_eq_resultIn (s : State) (r : Int) : s.complete r = s.resultIn r := rfl

@[simp] theorem State.storedIn_slot_self (s : State) (f : SlotNo) (v : PackedVector) :
    (s.storedIn f v).slot f = some v := s.slot_putVector_self f v

theorem State.storedIn_slot_of_ne (s : State) {f g : SlotNo} (v : PackedVector) (h : f ≠ g) :
    (s.storedIn f v).slot g = s.slot g := s.slot_putVector_of_ne f g v h

@[simp] theorem State.storedIn_arg0 (s : State) (f : SlotNo) (v : PackedVector) :
    (s.storedIn f v).arg0 = s.arg0 := rfl

/-- Of two vectors stored in one slot the later one stays. -/
theorem State.storedIn_storedIn (s : State) (f : SlotNo) (v u : PackedVector) :
    (s.storedIn f v).storedIn f u = s.storedIn f u := by
  simp [State.storedIn]

/-- Storing what a slot holds leaves the slots. -/
theorem State.storedIn_slots_of_slot {s : State} {f : SlotNo} {v : PackedVector} (h : s.slot f = some v) :
    (s.storedIn f v).slots = s.slots := by
  change (s.putVector f v).slots = s.slots
  rw [s.putVector_self f v h]

end Sys2Proof.Machine

end

/-! ### Vectors by their bits (10_state R22, R27; 00_scope R11) -/

section

namespace Sys2Proof.Machine

/-- A property of all words is one of the words `0 .. nwords - 1`. -/
theorem PackedVector.forall_mem_words (v : PackedVector) (P : Word → Prop) :
    (∀ w ∈ v.words, P w) ↔ ∀ k < v.nwords, P (v.word k) := by
  rw [List.forall_mem_iff_forall_getElem]
  exact forall₂_congr fun k hk => by rw [v.word_of_lt k hk]

/-- `v.Wf` by size and bits: the size of R22, and bit 31 of every word is 0. -/
theorem PackedVector.wf_iff (p : Config.Params) (v : PackedVector) :
    v.Wf p ↔ v.mb < p.maxcap ∧ v.nwords = v.mb / 31 + 1 ∧ ∀ k < v.nwords, (v.word k).getLsbD 31 = false := by
  rw [PackedVector.Wf, List.all_eq_true, v.forall_mem_words fun x => (!x.getLsbD 31) = true]
  simp only [Bool.not_eq_true']

/-- A mask covers no bit of a word. -/
theorem and_eq_zero_iff (x m : Word) : x &&& m = 0 ↔ ∀ b < 32, m.getLsbD b = true → x.getLsbD b = false := by
  rw [word_eq_zero_iff]
  refine forall₂_congr fun b _ => ?_
  rw [BitVec.getLsbD_and, Bool.and_eq_false_iff]
  cases m.getLsbD b <;> simp

/-- `canonical` by bits: bit 31 of every word and the bits of the last word above bit `maxBit` are 0. -/
theorem PackedVector.canonical_iff (v : PackedVector) :
    v.canonical = true ↔ (∀ k < v.nwords, (v.word k).getLsbD 31 = false) ∧
      ∀ b < 31, v.mb % 31 < b → (v.word (v.nwords - 1)).getLsbD b = false := by
  have top (b : Nat) (hb : b < 32) : (0x80000000 : Word).getLsbD b = decide (b = 31) := by
    rw [show (0x80000000 : Word) = onehot 31 by decide, onehot_getLsbD]
    simp [hb, eq_comm]
  have hw (w : Word) : w &&& 0x80000000 = 0 ↔ w.getLsbD 31 = false := by
    rw [and_eq_zero_iff]
    constructor
    · exact fun h => h 31 (by decide) (by decide)
    · intro h b hb hm
      rw [top b hb, decide_eq_true_eq] at hm
      exact hm ▸ h
  rw [PackedVector.canonical, Bool.and_eq_true, List.all_eq_true, v.forall_mem_words fun w => (_ == _) = true]
  simp only [beq_iff_eq, hw, and_eq_zero_iff, PackedVector.padmask_getLsbD, PackedVector.lastLocal]
  refine and_congr_right fun _ => ⟨fun h b hb hl => h b (by omega) (decide_eq_true ⟨hl, hb⟩), fun h b _ hb => ?_⟩
  obtain ⟨hl, hb⟩ := of_decide_eq_true hb
  exact h b hb hl

/-- `v'` has the size of `v`, and each of its bits is one of `v`, one of `u`, or an index `0 .. maxBit`: what the
mutators and the algebra make of their operands. -/
structure PackedVector.GrownFrom (v' v u : PackedVector) : Prop where
  maxBit : v'.maxBit = v.maxBit
  nwords : v'.nwords = v.nwords
  bits : ∀ k < v.nwords, ∀ b < 32, (v'.word k).getLsbD b = true →
    (v.word k).getLsbD b = true ∨ (u.word k).getLsbD b = true ∨ (b < 31 ∧ 31 * k + b ≤ v.mb)

theorem PackedVector.GrownFrom.mb {v' v u : PackedVector} (h : v'.GrownFrom v u) : v'.mb = v.mb := by
  rw [PackedVector.mb, h.maxBit, PackedVector.mb]

/-- Growing keeps bit 31 of every word clear. -/
theorem PackedVector.GrownFrom.wf {v' v u : PackedVector} {p : Config.Params} (h : v'.GrownFrom v u) (hv : v.Wf p)
    (hu : u.Wf p) (hn : v.nwords = u.nwords) : v'.Wf p := by
  rw [PackedVector.wf_iff] at hv hu ⊢
  obtain ⟨hcap, hsize, hv31⟩ := hv
  obtain ⟨-, -, hu31⟩ := hu
  refine ⟨h.mb ▸ hcap, by rw [h.nwords, hsize, h.mb], fun k hk => ?_⟩
  rw [h.nwords] at hk
  rw [← Bool.not_eq_true]
  intro hb
  rcases h.bits k hk 31 (by decide) hb with h1 | h1 | h1
  · exact Bool.false_ne_true ((hv31 k hk).symm.trans h1)
  · exact Bool.false_ne_true ((hu31 k (hn ▸ hk)).symm.trans h1)
  · omega

/-- Growing from canonical vectors of one capacity gives a canonical vector: an index in range is no padding. -/
theorem PackedVector.GrownFrom.canonical {v' v u : PackedVector} {p : Config.Params} (h : v'.GrownFrom v u)
    (hwf : v.Wf p) (hv : v.canonical = true) (hu : u.canonical = true) (hmb : v.maxBit = u.maxBit)
    (hn : v.nwords = u.nwords) : v'.canonical = true := by
  obtain ⟨-, hsize, -⟩ := hwf
  have hmb' : u.mb = v.mb := congrArg BitVec.toNat hmb.symm
  rw [PackedVector.canonical_iff] at hv hu ⊢
  rw [← hn, hmb'] at hu
  rw [h.nwords, h.mb]
  constructor
  · intro k hk
    rw [← Bool.not_eq_true]
    intro hb
    rcases h.bits k hk 31 (by decide) hb with h1 | h1 | h1
    · exact Bool.false_ne_true ((hv.1 k hk).symm.trans h1)
    · exact Bool.false_ne_true ((hu.1 k hk).symm.trans h1)
    · omega
  · intro b hb hpad
    rw [← Bool.not_eq_true]
    intro hbit
    rcases h.bits (v.nwords - 1) (by omega) b (by omega) hbit with h1 | h1 | h1
    · exact Bool.false_ne_true ((hv.2 b hb hpad).symm.trans h1)
    · exact Bool.false_ne_true ((hu.2 b hb hpad).symm.trans h1)
    · omega

/-- A vector of zero words, of either predicate. -/
theorem PackedVector.canonical_of_zero {v : PackedVector} (h : ∀ w ∈ v.words, w = 0) : v.canonical = true := by
  have hz (k : Nat) : v.word k = 0 := by
    by_cases hk : k < v.words.length
    · exact (v.word_of_lt k hk).trans (h _ (List.getElem_mem hk))
    · simp [PackedVector.word, hk]
  simp [PackedVector.canonical_iff, hz]

/-! #### The vectors the commands make -/

/-- A mask adds no bit that neither it nor the word has. -/
theorem applyMask_bit_of {k : Mutation} {x m : Word} {b : Nat} (hb : b < 32)
    (h : (applyMask k x m).getLsbD b = true) : x.getLsbD b = true ∨ m.getLsbD b = true := by
  rw [applyMask_getLsbD k x m b hb] at h
  split at h
  · next hm => exact .inr hm
  · exact .inl h

theorem PackedVector.pointed_grown (v : PackedVector) (kind : Mutation) {idx : Nat} (h : idx ≤ v.mb) :
    (v.pointed kind (idx / 31) (idx % 31)).GrownFrom v v where
  maxBit := v.pointed_maxBit kind _ _
  nwords := v.pointed_nwords kind _ _
  bits k hk b hb hbit := by
    rw [v.pointed_word kind _ _ k hk] at hbit
    split at hbit
    · rcases applyMask_bit_of hb hbit with hx | hm
      · exact .inl hx
      · rw [onehot_getLsbD, Bool.and_eq_true, decide_eq_true_eq, decide_eq_true_eq] at hm
        exact .inr (.inr (by omega))
    · exact .inl hbit

theorem PackedVector.ranged_grown (v : PackedVector) (kind : Mutation) {lo hi : Nat} (hlh : lo ≤ hi) (h : hi ≤ v.mb) :
    (v.ranged kind lo hi).GrownFrom v v where
  maxBit := v.ranged_maxBit kind lo hi
  nwords := v.ranged_nwords kind lo hi
  bits k hk b hb hbit := by
    rw [v.ranged_word kind lo hi k hk] at hbit
    split at hbit
    · next hkr =>
      rcases applyMask_bit_of hb hbit with hx | hm
      · exact .inl hx
      · rw [rangeMask_getLsbD lo hi k b hlh hkr.1 hkr.2, decide_eq_true_eq] at hm
        exact .inr (.inr (by omega))
    · exact .inl hbit

/-- `v` with every word zeroed (42_mutation R162). -/
def PackedVector.cleared (v : PackedVector) : PackedVector := { v with words := v.words.map fun _ => 0 }

@[simp] theorem PackedVector.cleared_nwords (v : PackedVector) : v.cleared.nwords = v.nwords := by
  simp [PackedVector.cleared, PackedVector.nwords]

theorem PackedVector.cleared_words (v : PackedVector) : ∀ w ∈ v.cleared.words, w = 0 := by
  simp [PackedVector.cleared]

theorem PackedVector.cleared_grown (v : PackedVector) : v.cleared.GrownFrom v v where
  maxBit := rfl
  nwords := v.cleared_nwords
  bits k hk b _ hbit := by
    have hz := (v.cleared.forall_mem_words (· = 0)).1 v.cleared_words k (by rwa [v.cleared_nwords])
    simp [hz] at hbit

theorem PackedVector.grown_refl (v : PackedVector) : v.GrownFrom v v := ⟨rfl, rfl, fun _ _ _ _ h => .inl h⟩

end Sys2Proof.Machine

end

/-! ### The commands by kind: mutators and gates -/

section

namespace Sys2Proof.Machine

/-- The point mutator of a kind (42_mutation R152 to R154). -/
def Mutation.pointInstr : Mutation → SlotNo → Instr
  | .setBits => .set
  | .unsetBits => .unset
  | .toggleBits => .toggle

/-- The range mutator of a kind (42_mutation R158 to R160). -/
def Mutation.rangeInstr : Mutation → SlotNo → Instr
  | .setBits => .setrange
  | .unsetBits => .unsetrange
  | .toggleBits => .togglerange

/-- The three word-wise operations of 43_algebra R173 to R175. -/
inductive Gate where
  | and
  | or
  | xor

/-- The operation on words. -/
def Gate.word : Gate → Word → Word → Word
  | .and => (· &&& ·)
  | .or => (· ||| ·)
  | .xor => (· ^^^ ·)

/-- The operation on one bit. -/
def Gate.bit : Gate → Bool → Bool → Bool
  | .and => (· && ·)
  | .or => (· || ·)
  | .xor => (· ^^ ·)

/-- The command of two vectors (43_algebra R173 to R175). -/
def Gate.instr : Gate → SlotNo → SlotNo → SlotNo → Instr
  | .and => .and
  | .or => .or
  | .xor => .xor

/-- The command of a vector and an index (43_algebra R178 to R180). -/
def Gate.indexInstr : Gate → SlotNo → SlotNo → Instr
  | .and => .andi
  | .or => .ori
  | .xor => .xori

theorem exec_pointInstr (kind : Mutation) (a : SlotNo) (s : State) :
    exec (kind.pointInstr a) s = pointCommand kind a s := by
  cases kind <;> rfl

theorem exec_rangeInstr (kind : Mutation) (a : SlotNo) (s : State) :
    exec (kind.rangeInstr a) s = rangeCommand kind a s := by
  cases kind <;> rfl

theorem exec_gateInstr (g : Gate) (d a b : SlotNo) (s : State) :
    exec (g.instr d a b) s = algebraCommand g.word d a b s := by
  cases g <;> rfl

theorem exec_gateIndexInstr (g : Gate) (d a : SlotNo) (s : State) :
    exec (g.indexInstr d a) s = onehotCommand g.word d a s := by
  cases g <;> rfl

/-- A gate works bit by bit. -/
theorem Gate.word_getLsbD (g : Gate) (x y : Word) (b : Nat) :
    (g.word x y).getLsbD b = g.bit (x.getLsbD b) (y.getLsbD b) := by
  cases g
  · exact BitVec.getLsbD_and
  · exact BitVec.getLsbD_or
  · exact BitVec.getLsbD_xor

/-- A gate makes no 1 of two 0s. -/
theorem Gate.bit_of {g : Gate} {x y : Bool} (h : g.bit x y = true) : x = true ∨ y = true := by
  cases g <;> cases x <;> cases y <;> simp_all [Gate.bit]

/-- Bit `b` of word `k` of a combination with the vector `u`. -/
theorem PackedVector.combine_getLsbD (v u : PackedVector) (g : Gate) {k : Nat} (b : Nat) (hk : k < v.nwords)
    (hn : v.nwords = u.nwords) :
    ((v.combine g.word u.words).word k).getLsbD b = g.bit ((v.word k).getLsbD b) ((u.word k).getLsbD b) := by
  rw [v.combine_word g.word u.words k hk (hn ▸ hk : k < u.nwords), g.word_getLsbD]
  rfl

/-- Bit `b` of word `k` of a combination with the one-hot vector of `idx`. -/
theorem PackedVector.combine_onehot_getLsbD (v : PackedVector) (g : Gate) (idx : Nat) {k b : Nat} (hk : k < v.nwords)
    (hb : b < 32) :
    ((v.combine g.word (v.onehotWords (idx / 31) (idx % 31))).word k).getLsbD b =
      g.bit ((v.word k).getLsbD b) (decide (b < 31 ∧ 31 * k + b = idx)) := by
  rw [v.combine_word g.word _ k hk (by rwa [v.onehotWords_length]), g.word_getLsbD, v.onehotWords_getD _ _ k hk]
  congr 1
  split
  · rw [onehot_getLsbD, decide_eq_true hb, Bool.true_and, decide_eq_decide]
    omega
  · have hne : ¬ (b < 31 ∧ 31 * k + b = idx) := by omega
    simp [hne]

theorem PackedVector.combine_grown (v u : PackedVector) (g : Gate) (hn : v.nwords = u.nwords) :
    (v.combine g.word u.words).GrownFrom v u where
  maxBit := rfl
  nwords := by rw [v.combine_nwords, ← PackedVector.nwords, ← hn, min_self]
  bits k hk b _ hbit := by
    rw [v.combine_getLsbD u g b hk hn] at hbit
    exact (Gate.bit_of hbit).imp_right .inl

theorem PackedVector.combine_onehot_grown (v : PackedVector) (g : Gate) {idx : Nat} (h : idx ≤ v.mb) :
    (v.combine g.word (v.onehotWords (idx / 31) (idx % 31))).GrownFrom v v where
  maxBit := rfl
  nwords := by simp
  bits k hk b hb hbit := by
    rw [v.combine_onehot_getLsbD g idx hk hb] at hbit
    rcases Gate.bit_of hbit with hx | hi
    · exact .inl hx
    · have := of_decide_eq_true hi
      exact .inr (.inr (by omega))

end Sys2Proof.Machine

end

/-! ### What `REHYD` builds (44_codec R220, R223 to R227) -/

section

namespace Sys2Proof.Machine

/-! #### Legal parameters (00_scope R6) -/

theorem maxcap_lt {p : Config.Params} (hp : p.Legal) : p.maxcap < 2 ^ 31 := by
  obtain ⟨-, ⟨-, hw⟩, -, -⟩ := hp
  simp only [Config.Params.maxcap, Config.bpw]
  omega

theorem maxcap_pos {p : Config.Params} (hp : p.Legal) : 31 ≤ p.maxcap := by
  obtain ⟨-, ⟨hw, -⟩, -, -⟩ := hp
  simp only [Config.Params.maxcap, Config.bpw]
  omega

@[simp] theorem PackedVector.make_nwords (mb : Nat) (ws : List Word) :
    (PackedVector.make mb ws).nwords = ws.length := rfl

theorem PackedVector.make_mb {mb : Nat} (h : mb < 2 ^ 32) (ws : List Word) : (PackedVector.make mb ws).mb = mb := by
  rw [PackedVector.mb, PackedVector.make, BitVec.toNat_ofNat, Nat.mod_eq_of_lt h]

/-! #### The vector a list of numbers stands for -/

/-- The vector of the numbers `given, lz, mb`: `lz` zero words, the given ones, zero words to the end (R226). -/
def rebuilt (given : List Nat) (lz mb : Nat) : PackedVector :=
  .make mb (List.replicate lz 0 ++ given.map (BitVec.ofNat 32) ++
    List.replicate (mb / 31 + 1 - lz - given.length) 0)

theorem rebuild_of_short (p : Config.Params) {nums : List Nat} (h : nums.length < 2) :
    rebuild p nums = .error .malformedEncoding := if_pos h

/-- The checks on two or more numbers, in the order of R220. -/
theorem rebuild_append {p : Config.Params} (hp : p.Legal) (given : List Nat) (lz mb : Nat) :
    rebuild p (given ++ [lz, mb]) =
      if p.maxcap ≤ mb then .error .badCapacity
      else if mb / 31 + 1 < lz + given.length ∨ ∃ x ∈ given, 2 ^ 31 ≤ x then .error .malformedEncoding
      else .ok (rebuilt given lz mb) := by
  have hcap : p.maxcap - 1 < mb ↔ p.maxcap ≤ mb := by have := maxcap_pos hp; omega
  simp [rebuild, rebuilt, hcap, ite_or]

/-- Two or more numbers end in a leading zero count and a `maxBit`. -/
theorem exists_append_pair {nums : List Nat} (h : 2 ≤ nums.length) : ∃ given lz mb, nums = given ++ [lz, mb] := by
  obtain ⟨init, mb, rfl⟩ := List.eq_nil_or_concat nums |>.resolve_left (by rintro rfl; simp at h)
  obtain ⟨given, lz, rfl⟩ := List.eq_nil_or_concat init |>.resolve_left (by rintro rfl; simp at h)
  exact ⟨given, lz, mb, by simp⟩

/-- What the numbers of a text that builds a vector are. -/
theorem rebuild_ok_inv {p : Config.Params} (hp : p.Legal) {nums : List Nat} {v : PackedVector}
    (h : rebuild p nums = .ok v) : ∃ given lz mb, nums = given ++ [lz, mb] ∧ mb < p.maxcap ∧
      lz + given.length ≤ mb / 31 + 1 ∧ (∀ x ∈ given, x < 2 ^ 31) ∧ v = rebuilt given lz mb := by
  by_cases hlen : nums.length < 2
  · rw [rebuild_of_short p hlen] at h
    cases h
  · obtain ⟨given, lz, mb, rfl⟩ := exists_append_pair (Nat.not_lt.1 hlen)
    rw [rebuild_append hp] at h
    split_ifs at h with hcap hbad
    cases h
    simp only [not_or, not_exists, not_and, not_le, not_lt] at hcap hbad
    exact ⟨given, lz, mb, rfl, hcap, hbad.1, hbad.2, rfl⟩

theorem rebuilt_nwords {given : List Nat} {lz mb : Nat} (h : lz + given.length ≤ mb / 31 + 1) :
    (rebuilt given lz mb).nwords = mb / 31 + 1 := by
  simp [rebuilt]
  omega

theorem rebuilt_mb {p : Config.Params} (hp : p.Legal) {mb : Nat} (h : mb < p.maxcap) (given : List Nat) (lz : Nat) :
    (rebuilt given lz mb).mb = mb := by
  have := maxcap_lt hp
  exact PackedVector.make_mb (by omega) _

/-- Word `k` of the built vector, its given words being below `2^31`. -/
theorem rebuilt_word_toNat {given : List Nat} (lz mb k : Nat) (h : ∀ x ∈ given, x < 2 ^ 31) :
    ((rebuilt given lz mb).word k).toNat = if k < lz then 0 else (given[k - lz]?).getD 0 := by
  simp only [PackedVector.word, rebuilt, PackedVector.make, List.getD_eq_getElem?_getD, List.append_assoc]
  split
  · next hk => simp [List.getElem?_append_left, hk]
  · next hk =>
    rw [List.getElem?_append_right (by simpa using hk), List.length_replicate]
    by_cases hg : k - lz < given.length
    · have := h _ (List.getElem_mem hg)
      rw [List.getElem?_append_left (by simpa using hg)]
      simp [hg]
      omega
    · rw [List.getElem?_append_right (by simpa using hg)]
      simp [List.getElem?_replicate, Nat.not_lt.1 hg]
      split <;> rfl

/-- What `REHYD` stores is an allowed vector. -/
theorem rebuilt_wf {p : Config.Params} (hp : p.Legal) {given : List Nat} {lz mb : Nat} (hcap : mb < p.maxcap)
    (hlen : lz + given.length ≤ mb / 31 + 1) (hlt : ∀ x ∈ given, x < 2 ^ 31) : (rebuilt given lz mb).Wf p := by
  rw [PackedVector.wf_iff, rebuilt_mb hp hcap, rebuilt_nwords hlen]
  refine ⟨hcap, rfl, fun k _ => ?_⟩
  have hword : ((rebuilt given lz mb).word k).toNat < 2 ^ 31 := by
    rw [rebuilt_word_toNat lz mb k hlt]
    split
    · decide
    · by_cases hg : k - lz < given.length
      · simpa [hg] using hlt _ (List.getElem_mem hg)
      · simp [Nat.not_lt.1 hg]
  exact Nat.testBit_lt_two_pow hword

theorem rehydrated_wf {p : Config.Params} (hp : p.Legal) {t : List Byte} {v : PackedVector}
    (h : rehydrated p t = .ok v) : v.Wf p := by
  rcases rehydrated_cases p t with ⟨-, he⟩ | ⟨nums, -, he⟩
  · rw [he] at h
    cases h
  · obtain ⟨given, lz, mb, -, hcap, hlen, hlt, rfl⟩ := rebuild_ok_inv hp (he.symm.trans h)
    exact rebuilt_wf hp hcap hlen hlt

/-! #### What `NEW` builds (40_storage R102) -/

theorem zeroVector_mb {n : Nat} (h : n ≤ 2 ^ 32) (h1 : 1 ≤ n) : (zeroVector n).mb = n - 1 :=
  PackedVector.make_mb (by omega) _

theorem zeroVector_nwords (n : Nat) : (zeroVector n).nwords = (n + 30) / 31 := by
  simp [zeroVector, ceil31]

theorem zeroVector_words (n : Nat) : ∀ w ∈ (zeroVector n).words, w = 0 := by
  simp [zeroVector, PackedVector.make, ceil31]

theorem zeroVector_wf {p : Config.Params} (hp : p.Legal) {n : Nat} (h1 : 1 ≤ n) (hn : n ≤ p.maxcap) :
    (zeroVector n).Wf p := by
  have hcap := maxcap_lt hp
  rw [PackedVector.wf_iff, zeroVector_mb (by omega) h1, zeroVector_nwords]
  refine ⟨by omega, by omega, fun k hk => ?_⟩
  have hz := ((zeroVector n).forall_mem_words (· = 0)).1 (zeroVector_words n) k (by rwa [zeroVector_nwords])
  rw [hz]
  rfl

end Sys2Proof.Machine

end

/-! ### What a command writes (10_state R26, R29; 30_encoding R74) -/

section

namespace Sys2Proof.Machine

/-- The vectors the commands store: `Makes s i f v` says that command `i` may store `v` in slot `f` from state `s`. -/
inductive Makes (s : State) : Instr → SlotNo → PackedVector → Prop
  | new (d : SlotNo) {n : Nat} (h1 : 1 ≤ n) (hn : n ≤ s.params.maxcap) : Makes s (.new d) d (zeroVector n)
  | rehyd (d : SlotNo) {t : List Byte} {v : PackedVector} (h : rehydrated s.params t = .ok v) : Makes s (.rehyd d) d v
  | clone (d : SlotNo) {a : SlotNo} {v : PackedVector} (h : s.slot a = some v) : Makes s (.clone d a) d v
  | clear {a : SlotNo} {v : PackedVector} (h : s.slot a = some v) : Makes s (.clear a) a v.cleared
  | point (kind : Mutation) {a : SlotNo} {v : PackedVector} {idx : Nat} (h : s.slot a = some v) (hi : idx ≤ v.mb) :
      Makes s (kind.pointInstr a) a (v.pointed kind (idx / 31) (idx % 31))
  | range (kind : Mutation) {a : SlotNo} {v : PackedVector} {lo hi : Nat} (h : s.slot a = some v) (hlh : lo ≤ hi)
      (hhi : hi ≤ v.mb) : Makes s (kind.rangeInstr a) a (v.ranged kind lo hi)
  | gate (g : Gate) (d : SlotNo) {a b : SlotNo} {v u : PackedVector} (ha : s.slot a = some v) (hb : s.slot b = some u)
      (hn : v.nwords = u.nwords) : Makes s (g.instr d a b) d (v.combine g.word u.words)
  | gateIndex (g : Gate) (d : SlotNo) {a : SlotNo} {v : PackedVector} {idx : Nat} (h : s.slot a = some v)
      (hi : idx ≤ v.mb) :
      Makes s (g.indexInstr d a) d (v.combine g.word (v.onehotWords (idx / 31) (idx % 31)))

/-- What the rule of command `i` can answer in state `s`: an exception, a result, a vector in the slot the command
writes, or a text. -/
inductive Answers (s : State) (i : Instr) : Answer → Prop
  | error (e : Exc) : Answers s i (.error e)
  | answer (r : Int) : Answers s i (answer s r)
  | store {f : SlotNo} {v : PackedVector} (hf : s.hasSlot f = true) (hm : Makes s i f v) : Answers s i (store s f v)
  | emit (ht : writesText i = true) (t : List Byte) : Answers s i (emit s t)

/-- Command `i`, started in `s`, does what its rule answers. -/
def Does (s : State) (i : Instr) (o : Host.Outcome State Fault Refusal) : Prop :=
  ∃ r : Answer, o = .next (s.finish r) ∧ Answers s i r

/-! #### The frame of each format -/

theorem does_error {s : State} {i : Instr} {o : Host.Outcome State Fault Refusal} {e : Exc}
    (h : o = .next (s.raise e)) : Does s i o := ⟨.error e, h, .error e⟩

theorem commandD_does {i : Instr} {d : SlotNo} {s : State} {rule : Answer}
    (hr : s.hasSlot d = true → Answers s i rule) : Does s i (commandD d s rule) := by
  rcases commandD_cases d s rule with ⟨-, ho⟩ | ⟨hd, ho⟩
  · exact does_error ho
  · exact ⟨rule, ho, hr hd⟩

theorem commandA_does {i : Instr} {a : SlotNo} {s : State} {rule : PackedVector → Answer}
    (hr : ∀ v, s.Holds a v → Answers s i (rule v)) : Does s i (commandA a s rule) := by
  rcases commandA_cases a s rule with ⟨-, ho⟩ | ⟨-, -, ho⟩ | ⟨ha, v, hv, ho⟩
  · exact does_error ho
  · exact does_error ho
  · exact ⟨rule v, ho, hr v ⟨ha, hv⟩⟩

theorem commandAB_does {i : Instr} {a b : SlotNo} {s : State} {rule : PackedVector → PackedVector → Answer}
    (hr : ∀ v u, Answers s i (rule v u)) : Does s i (commandAB a b s rule) := by
  rcases commandAB_cases a b s rule with ⟨-, ho⟩ | ⟨-, -, -, ho⟩ | ⟨-, -, v, u, -, -, ho⟩
  · exact does_error ho
  · exact does_error ho
  · exact ⟨rule v u, ho, hr v u⟩

theorem commandDA_does {i : Instr} {d a : SlotNo} {s : State} {rule : PackedVector → Answer}
    (hr : ∀ v, s.hasSlot d = true → s.slot a = some v → Answers s i (rule v)) : Does s i (commandDA d a s rule) := by
  rcases commandDA_cases d a s rule with ⟨-, ho⟩ | ⟨-, -, -, ho⟩ | ⟨hd, -, v, hv, ho⟩
  · exact does_error ho
  · exact does_error ho
  · exact ⟨rule v, ho, hr v hd hv⟩

theorem commandDAB_does {i : Instr} {d a b : SlotNo} {s : State} {rule : PackedVector → PackedVector → Answer}
    (hr : ∀ v u, s.hasSlot d = true → s.slot a = some v → s.slot b = some u → Answers s i (rule v u)) :
    Does s i (commandDAB d a b s rule) := by
  rcases commandDAB_cases d a b s rule with ⟨-, ho⟩ | ⟨-, -, -, -, ho⟩ | ⟨hd, -, -, v, u, hv, hu, ho⟩
  · exact does_error ho
  · exact does_error ho
  · exact ⟨rule v u, ho, hr v u hd hv hu⟩

/-! #### The rules -/

theorem answers_atIndex {s : State} {i : Instr} {v : PackedVector} {idx : Int} {go : Nat → Nat → Answer}
    (h : idx.toNat ≤ v.mb → Answers s i (go (idx.toNat / 31) (idx.toNat % 31))) : Answers s i (atIndex v idx go) := by
  rcases atIndex_cases v idx go with ⟨-, he⟩ | ⟨h0, h1, he⟩
  · exact he ▸ .error _
  · exact he ▸ h (by omega)

theorem answers_sameSize {s : State} {i : Instr} {v u : PackedVector} {go : Answer}
    (h : v.nwords = u.nwords → Answers s i go) : Answers s i (sameSize v u go) := by
  rcases sameSize_cases v u go with ⟨-, he⟩ | ⟨hn, he⟩
  · rw [he]
    exact .error _
  · rw [he]
    exact h hn

theorem execNew_does (d : SlotNo) (s : State) : Does s (.new d) (execNew d s) := by
  refine commandD_does fun hd => ?_
  split_ifs with hneg hcap
  · exact .error _
  · exact .error _
  · exact .store hd (.new d (by unfold effectiveCapacity; split_ifs <;> omega) (Nat.not_lt.1 hcap))

theorem execRehyd_does (d : SlotNo) (s : State) : Does s (.rehyd d) (execRehyd d s) := by
  refine commandD_does fun hd => ?_
  split_ifs
  · exact .error _
  · cases h : rehydrated s.params (s.textRead s.textlen.toNat) with
    | error e => exact .error e
    | ok v => exact .store hd (.rehyd d h)

theorem pointCommand_does (kind : Mutation) (a : SlotNo) (s : State) :
    Does s (kind.pointInstr a) (pointCommand kind a s) :=
  commandA_does fun _ ⟨ha, hv⟩ => answers_atIndex fun hi => .store ha (.point kind hv hi)

theorem rangeCommand_does (kind : Mutation) (a : SlotNo) (s : State) :
    Does s (kind.rangeInstr a) (rangeCommand kind a s) :=
  commandA_does fun _ ⟨ha, hv⟩ => answers_atIndex fun _ => answers_atIndex fun hhi =>
    .store ha (.range kind hv (Int.toNat_le_toNat min_le_max) hhi)

theorem algebraCommand_does (g : Gate) (d a b : SlotNo) (s : State) :
    Does s (g.instr d a b) (algebraCommand g.word d a b s) :=
  commandDAB_does fun _ _ hd hv hu => answers_sameSize fun hn => .store hd (.gate g d hv hu hn)

theorem onehotCommand_does (g : Gate) (d a : SlotNo) (s : State) :
    Does s (g.indexInstr d a) (onehotCommand g.word d a s) :=
  commandDA_does fun _ hd hv => answers_atIndex fun hi => .store hd (.gateIndex g d hv hi)

/-- EVERY COMMAND, ONCE: it raises, answers a result, stores a vector of its kind, or emits a text. -/
theorem exec_does (i : Instr) (s : State) : Does s i (exec i s) := by
  cases i with
  | new d => exact execNew_does d s
  | rehyd d => exact execRehyd_does d s
  | set a => exact pointCommand_does .setBits a s
  | unset a => exact pointCommand_does .unsetBits a s
  | toggle a => exact pointCommand_does .toggleBits a s
  | setrange a => exact rangeCommand_does .setBits a s
  | unsetrange a => exact rangeCommand_does .unsetBits a s
  | togglerange a => exact rangeCommand_does .toggleBits a s
  | clear a => exact commandA_does fun v ⟨ha, hv⟩ => .store ha (.clear hv)
  | clone d a => exact commandDA_does fun v hd hv => .store hd (.clone d hv)
  | and d a b => exact algebraCommand_does .and d a b s
  | or d a b => exact algebraCommand_does .or d a b s
  | xor d a b => exact algebraCommand_does .xor d a b s
  | andi d a => exact onehotCommand_does .and d a s
  | ori d a => exact onehotCommand_does .or d a s
  | xori d a => exact onehotCommand_does .xor d a s
  | dehyd a | tostr a => exact commandA_does fun v _ => .emit rfl _
  | isequal a b | issubset a b => exact commandAB_does fun v u => answers_sameSize fun _ => .answer _
  | i2w a | get a | nextset a | nextunset a | prevset a | prevunset a =>
    exact commandA_does fun v _ => answers_atIndex fun _ => .answer _
  | ffs a | ffz a | fls a | flz a | card a | isempty a => exact commandA_does fun v _ => .answer _

/-! #### The slots after a command -/

/-- A command stores in the slot R29 names. -/
theorem Makes.writtenSlot_eq {s : State} {i : Instr} {f : SlotNo} {v : PackedVector} (h : Makes s i f v) :
    writtenSlot i = some f := by
  cases h with
  | point kind | range kind => cases kind <;> rfl
  | gate g | gateIndex g => cases g <;> rfl
  | _ => rfl

/-- Everything a slot can hold after a command: what it held, or the vector the command stored. -/
theorem exec_slot_cases {i : Instr} {s s' : State} (h : exec i s = .next s') (f : SlotNo) :
    s'.slot f = s.slot f ∨ ∃ v, s'.slot f = some v ∧ s.hasSlot f = true ∧ Makes s i f v := by
  obtain ⟨r, ho, hr⟩ := exec_does i s
  obtain rfl : s.finish r = s' := by simpa [h, eq_comm] using ho
  cases hr with
  | error e => exact .inl rfl
  | answer n => exact .inl rfl
  | emit ht t => exact .inl rfl
  | @store g v hg hm =>
    rw [State.finish_store, State.complete_slot, State.slot_putVector]
    split_ifs with hfg
    · subst hfg
      exact .inr ⟨v, rfl, hg, hm⟩
    · exact .inl rfl

/-- No command changes the parameters, and each keeps the text buffer well-formed. -/
theorem exec_params_text {i : Instr} {s s' : State} (h : exec i s = .next s') :
    s'.params = s.params ∧ (s.TextWf → s'.TextWf) := by
  obtain ⟨r, ho, hr⟩ := exec_does i s
  obtain rfl : s.finish r = s' := by simpa [h, eq_comm] using ho
  cases hr with
  | error e => exact ⟨rfl, id⟩
  | answer n => exact ⟨rfl, id⟩
  | store hf hm => exact ⟨rfl, id⟩
  | emit ht t => exact ⟨rfl, s.putText_text_wf t⟩

/-- A stored vector is fresh, or grown from source vectors; two of different capacity only by `AND`, `OR`, `XOR`. -/
theorem Makes.cases {s : State} {i : Instr} {f : SlotNo} {v' : PackedVector} (h : Makes s i f v') :
    (∃ n, i = .new f ∧ 1 ≤ n ∧ n ≤ s.params.maxcap ∧ v' = zeroVector n) ∨
      (∃ t, i = .rehyd f ∧ rehydrated s.params t = .ok v') ∨
      ∃ a b v u, s.slot a = some v ∧ s.slot b = some u ∧ v.nwords = u.nwords ∧ v'.GrownFrom v u ∧
        (i.fields.d = none → a = f) ∧ (v = u ∨ ∃ g : Gate, i = g.instr f a b) := by
  cases h with
  | new d h1 hn => exact .inl ⟨_, rfl, h1, hn, rfl⟩
  | rehyd d h => exact .inr (.inl ⟨_, rfl, h⟩)
  | clone d h => exact .inr (.inr ⟨_, _, _, _, h, h, rfl, v'.grown_refl, nofun, .inl rfl⟩)
  | @clear a v h => exact .inr (.inr ⟨_, _, v, v, h, h, rfl, v.cleared_grown, fun _ => rfl, .inl rfl⟩)
  | @point kind a v idx h hi =>
    exact .inr (.inr ⟨_, _, v, v, h, h, rfl, v.pointed_grown kind hi, fun _ => rfl, .inl rfl⟩)
  | @range kind a v lo hi h hlh hhi =>
    exact .inr (.inr ⟨_, _, v, v, h, h, rfl, v.ranged_grown kind hlh hhi, fun _ => rfl, .inl rfl⟩)
  | @gate g d a b v u ha hb hn =>
    exact .inr (.inr ⟨_, _, v, u, ha, hb, hn, v.combine_grown u g hn, by cases g <;> nofun, .inr ⟨g, rfl⟩⟩)
  | @gateIndex g d a v idx h hi =>
    exact .inr (.inr ⟨_, _, v, v, h, h, rfl, v.combine_onehot_grown g hi, by cases g <;> nofun, .inl rfl⟩)

end Sys2Proof.Machine

end

/-! ### What an input does to slots and text (20_memory R52, 60_exceptions R241) -/

section

namespace Sys2Proof.Machine

/-- The parameters and slots of `s'` are those of `s`, and its text is well-formed where that of `s` is: what every
input does but a command and the reset. -/
structure Quiet (s s' : State) : Prop where
  params : s'.params = s.params
  slots : s'.slots = s.slots
  text : s.TextWf → s'.TextWf

theorem Quiet.refl (s : State) : Quiet s s := ⟨rfl, rfl, id⟩

theorem Quiet.trans {s t u : State} (h : Quiet s t) (h' : Quiet t u) : Quiet s u :=
  ⟨h'.params.trans h.params, h'.slots.trans h.slots, fun hs => h'.text (h.text hs)⟩

theorem Quiet.slot {s s' : State} (h : Quiet s s') (f : SlotNo) : s'.slot f = s.slot f := by
  rw [State.slot_eq, State.slot_eq, h.slots]

theorem quiet_hostTextWrite (s : State) (i : Nat) (b : Byte) : Quiet s (s.hostTextWrite i b) where
  params := by rw [s.hostTextWrite_frame]
  slots := by rw [s.hostTextWrite_frame]
  text := s.hostTextWrite_text_wf i b

theorem quiet_busWriteByte (s : State) (o : Nat) (b : Byte) : Quiet s (s.busWriteByte o b) where
  params := by rw [s.busWriteByte_frame]
  slots := by rw [s.busWriteByte_frame]
  text := s.busWriteByte_text_wf o b

/-- A bus write of `n + 1` bytes is one of `n` bytes and the write of its last byte. -/
theorem State.busWriteBytes_succ (s : State) (n o : Nat) (x : Word) :
    s.busWriteBytes (n + 1) o x = (s.busWriteBytes n o x).busWriteByte (o + n) (byteOf x n) := by
  simp [State.busWriteBytes, List.range_succ, List.foldl_append]

@[simp] theorem State.busWriteBytes_zero (s : State) (o : Nat) (x : Word) : s.busWriteBytes 0 o x = s := rfl

theorem quiet_busWriteBytes (s : State) (n o : Nat) (x : Word) : Quiet s (s.busWriteBytes n o x) := by
  induction n with
  | zero => exact .refl s
  | succ n ih => exact s.busWriteBytes_succ n o x ▸ ih.trans (quiet_busWriteByte _ _ _)

/-- What an input but the reset can do: run a command, in a state it has left quiet, or be quiet itself. -/
inductive InputDoes (s : State) : Host.Outcome State Fault Refusal → Prop
  | command (i : Instr) {t : State} (h : Quiet s t) : InputDoes s (exec i t)
  | quiet {s' : State} (h : Quiet s s') : InputDoes s (.next s')

theorem writeReg_does (r : Reg) (x : Word) (s : State) : InputDoes s (writeReg r x s) := by
  rcases writeReg_cases r x s with ⟨-, h⟩ | ⟨-, h⟩ | ⟨-, h⟩ | ⟨-, h⟩ | ⟨-, h⟩ | h
  · rw [h]
    rcases writeCmd_cases x s with ⟨-, -, hw⟩ | ⟨i, -, hw⟩
    · exact hw ▸ .quiet ⟨rfl, rfl, id⟩
    · exact hw ▸ .command i ⟨rfl, rfl, id⟩
  all_goals exact h ▸ .quiet ⟨rfl, rfl, id⟩

theorem performTxn_does (t : Txn) (s : State) : InputDoes s (performTxn t s) := by
  cases t with
  | regWrite r x => exact writeReg_does r x s
  | regRead r => exact .quiet ⟨rfl, rfl, id⟩
  | textWrite i b => exact .quiet (quiet_hostTextWrite s i b)
  | textRead i => exact .quiet ⟨rfl, rfl, id⟩

theorem performBus_does (a : BusAccess) (s : State) : InputDoes s (performBus a s) := by
  rcases performBus_cases a s with ⟨r, h⟩ | ⟨r, x, h⟩ | ⟨n, o, h⟩ | ⟨n, o, x, h⟩ | h
  · exact h ▸ performTxn_does (.regRead r) s
  · exact h ▸ writeReg_does r x s
  · exact h ▸ .quiet ⟨rfl, rfl, id⟩
  · exact h ▸ .quiet (quiet_busWriteBytes s n o x)
  · exact h ▸ .quiet (.refl s)

theorem InputDoes.exists_next {s : State} {o : Host.Outcome State Fault Refusal} (h : InputDoes s o) :
    ∃ s', o = .next s' := by
  cases h with
  | command i h => exact (exec_endsIn i _).exists_next.imp fun _ hs' => hs'.1
  | quiet h => exact ⟨_, rfl⟩

theorem InputDoes.next_cases {s s' : State} {o : Host.Outcome State Fault Refusal} (h : InputDoes s o)
    (ho : o = .next s') : Quiet s s' ∨ ∃ i t, Quiet s t ∧ exec i t = .next s' := by
  cases h with
  | command i h => exact .inr ⟨i, _, h, ho⟩
  | quiet h =>
    cases ho
    exact .inl h

/-- EVERY STEP, ONCE: an idle step, or its input is no reset and does what `InputDoes` says, or is the reset. -/
theorem step_does (s : State) : InputDoes s (step s) ∨
    s.pending.head? = some .reset ∧ ∃ t, Quiet s t ∧ step s = .next t.applyReset := by
  rcases step_cases s with ⟨-, hstep⟩ | ⟨i, rest, hp, hstep⟩
  · exact .inl (hstep ▸ .quiet (.refl s))
  · have hq : Quiet s { s with pending := rest } := ⟨rfl, rfl, id⟩
    have of_input {o : Host.Outcome State Fault Refusal} (h : InputDoes { s with pending := rest } o) :
        InputDoes s o := by
      cases h with
      | command i h => exact .command i (hq.trans h)
      | quiet h => exact .quiet (hq.trans h)
    rw [hstep]
    cases i with
    | txn t => exact .inl (of_input (performTxn_does t _))
    | bus a => exact .inl (of_input (performBus_does a _))
    | reset => exact .inr ⟨by rw [hp]; rfl, _, hq, rfl⟩

/-- Everything a step can lead to. -/
theorem step_next_cases {s s' : State} (h : step s = .next s') :
    Quiet s s' ∨ (∃ i t, Quiet s t ∧ exec i t = .next s') ∨
      (s.pending.head? = some .reset ∧ ∃ t, Quiet s t ∧ s' = t.applyReset) := by
  rcases step_does s with hd | ⟨hr, t, ht, hs⟩
  · exact (hd.next_cases h).imp_right .inl
  · exact .inr (.inr ⟨hr, t, ht, by simpa [h] using hs⟩)

end Sys2Proof.Machine

end

/-! ### Invariants (10_state R20 to R29) -/

section

namespace Sys2Proof.Machine

theorem State.slotWf_iff (s : State) (f : SlotNo) :
    s.slotWf f = true ↔ ∀ v, s.slot f = some v → s.hasSlot f = true ∧ v.Wf s.params := by
  unfold State.slotWf
  cases s.slot f with
  | none => simp
  | some v => simp

theorem State.Inv.wf {s : State} (h : s.Inv) {f : SlotNo} {v : PackedVector} (hv : s.slot f = some v) :
    v.Wf s.params := ((s.slotWf_iff f).1 (h.2.1 f) v hv).2

theorem Quiet.inv {s s' : State} (h : Quiet s s') (hs : s.Inv) : s'.Inv := by
  obtain ⟨hp, hslots, htext⟩ := hs
  refine ⟨h.params ▸ hp, fun f => ?_, h.text htext⟩
  have hf := (s.slotWf_iff f).1 (hslots f)
  rw [State.slotWf_iff, h.slot f, State.hasSlot, h.params]
  exact hf

/-- A vector a command stores is an allowed one, the sources being such. -/
theorem Makes.wf {s : State} {i : Instr} {f : SlotNo} {v : PackedVector} (h : Makes s i f v) (hs : s.Inv) :
    v.Wf s.params := by
  rcases h.cases with ⟨n, -, h1, hn, rfl⟩ | ⟨t, -, ht⟩ | ⟨a, b, u, w, hu, hw, hn, hg, -, -⟩
  · exact zeroVector_wf hs.1 h1 hn
  · exact rehydrated_wf hs.1 ht
  · exact hg.wf (hs.wf hu) (hs.wf hw) hn

theorem exec_inv {i : Instr} {s s' : State} (hs : s.Inv) (h : exec i s = .next s') : s'.Inv := by
  obtain ⟨hparams, htext⟩ := exec_params_text h
  refine ⟨hparams ▸ hs.1, fun f => ?_, htext hs.2.2⟩
  rw [State.slotWf_iff, State.hasSlot, hparams]
  intro v hv
  rcases exec_slot_cases h f with hsame | ⟨v', hv', hf, hm⟩
  · exact (s.slotWf_iff f).1 (hs.2.1 f) v (hsame.symm.trans hv)
  · obtain rfl : v' = v := Option.some.inj (hv'.symm.trans hv)
    exact ⟨hf, hm.wf hs⟩

theorem applyReset_inv {s : State} (hs : s.Inv) : s.applyReset.Inv :=
  ⟨hs.1, fun f => by simp [State.slotWf_iff], rfl, by simp⟩

/-- Settles O19: a step is quiet, a command, whose stored vectors are well-formed, or the reset. -/
theorem stepKeepsInvariant : Obligations.StepKeepsInvariant := by
  unfold Obligations.StepKeepsInvariant
  intro s s' hs h
  rcases step_next_cases h with hq | ⟨i, t, hq, hexec⟩ | ⟨-, t, hq, rfl⟩
  · exact hq.inv hs
  · exact exec_inv (hq.inv hs) hexec
  · exact applyReset_inv (hq.inv hs)

/-- Settles O18: no slot holds a vector and no byte is listed. -/
theorem resetHasInvariant : Obligations.ResetHasInvariant := by
  unfold Obligations.ResetHasInvariant
  have inv (p : Config.Params) (hp : p.Legal) : (State.resetOf p).Inv :=
    ⟨hp, fun f => by simp [State.slotWf_iff], rfl, by simp [State.resetOf]⟩
  exact ⟨inv _ (by decide), inv⟩

/-- Settles O20: a command ends in completion or an exception, and every other input answers a state outright. -/
theorem everyStepAnswersNext : Obligations.EveryStepAnswersNext := by
  unfold Obligations.EveryStepAnswersNext
  intro s
  rcases step_does s with hd | ⟨-, t, -, hs⟩
  · exact hd.exists_next
  · exact ⟨_, hs⟩

/-- Settles O21: a command only puts vectors into slots, and every other input but the reset leaves the slots. -/
theorem validSlotsStayValid : Obligations.ValidSlotsStayValid := by
  unfold Obligations.ValidSlotsStayValid
  intro s s' f hr h hv
  rcases step_next_cases h with hq | ⟨i, t, hq, hexec⟩ | ⟨hreset, -⟩
  · rwa [hq.slot f]
  · rcases exec_slot_cases hexec f with hsame | ⟨v, hv', -⟩
    · rwa [hsame, hq.slot f]
    · rw [hv']
      rfl
  · exact absurd hreset hr

/-- Settles O22: without a field `D` the stored vector is grown from the one its slot held. -/
theorem capacityIsFixed : Obligations.CapacityIsFixed := by
  unfold Obligations.CapacityIsFixed
  intro i s s' f v hd h hv
  rcases exec_slot_cases h f with hsame | ⟨v', hv', -, hm⟩
  · exact ⟨v, hsame.trans hv, rfl, rfl⟩
  · rcases hm.cases with ⟨n, rfl, -⟩ | ⟨t, rfl, -⟩ | ⟨a, b, u, w, hu, -, -, hg, ha, -⟩
    · cases hd
    · cases hd
    · obtain rfl := ha hd
      obtain rfl : u = v := Option.some.inj (hu.symm.trans hv)
      exact ⟨v', hv', hg.maxBit, hg.nwords⟩

theorem State.AllCanonical.canonical {s : State} (h : s.AllCanonical) {f : SlotNo} {v : PackedVector}
    (hv : s.slot f = some v) : v.canonical = true := by
  simpa [hv] using h f

/-- A stored vector is canonical when it is no `REHYD`'s and its sources are canonical and of one capacity. -/
theorem Makes.canonical {s : State} {i : Instr} {f : SlotNo} {v' : PackedVector} (hm : Makes s i f v') (hs : s.Inv)
    (hc : s.AllCanonical) (hr : ∀ d, i ≠ .rehyd d)
    (hcap : ∀ (g : Gate) d a b v u, i = g.instr d a b → s.slot a = some v → s.slot b = some u →
      v.maxBit = u.maxBit) : v'.canonical = true := by
  rcases hm.cases with ⟨n, -, -, -, rfl⟩ | ⟨t, ht, -⟩ | ⟨a, b, v, u, hv, hu, hn, hg, -, hsame⟩
  · exact PackedVector.canonical_of_zero (zeroVector_words n)
  · exact absurd ht (hr f)
  · have hmb : v.maxBit = u.maxBit := by
      rcases hsame with rfl | ⟨g, hi⟩
      · rfl
      · exact hcap g f a b v u hi hv hu
    exact hg.canonical (hs.wf hv) (hc.canonical hv) (hc.canonical hu) hmb hn

/-- Settles O23: what a command stores is canonical, and every other slot stays. -/
theorem canonicalVectorsStayCanonical : Obligations.CanonicalVectorsStayCanonical := by
  unfold Obligations.CanonicalVectorsStayCanonical
  intro i s s' hs hc hr hcap h f
  rcases exec_slot_cases h f with hsame | ⟨v, hv, -, hm⟩
  · exact hsame ▸ hc f
  · have hgate (g : Gate) d a b (hi : i = g.instr d a b) : i = .and d a b ∨ i = .or d a b ∨ i = .xor d a b := by
      cases g <;> simp [hi, Gate.instr]
    rw [hv]
    exact hm.canonical hs hc hr fun g d a b v u hi => hcap d a b v u (hgate g d a b hi)

/-- Settles O25: the answer of a completing command is a result, a stored vector or a text, each with its frame. -/
theorem completingCommandFrame : Obligations.CompletingCommandFrame := by
  unfold Obligations.CompletingCommandFrame
  intro i s s' h hcode
  obtain ⟨r, ho, hr⟩ := exec_does i s
  obtain rfl : s.finish r = s' := by simpa [h, eq_comm] using ho
  cases hr with
  | error e => cases hcode
  | answer n => exact ⟨rfl, rfl, rfl, rfl, rfl, rfl, rfl, fun _ _ => rfl, fun _ => ⟨rfl, fun _ => rfl⟩⟩
  | @store g v hg hm =>
    refine ⟨rfl, rfl, rfl, rfl, rfl, rfl, rfl, fun f hf => ?_, fun _ => ⟨rfl, fun _ => rfl⟩⟩
    exact s.slot_putVector_of_ne g f v fun hgf => hf (hgf ▸ hm.writtenSlot_eq)
  | emit ht t =>
    exact ⟨rfl, rfl, rfl, rfl, rfl, rfl, rfl, fun _ _ => rfl, fun hf => absurd (ht.symm.trans hf) (by decide)⟩

end Sys2Proof.Machine

end

/-! ### Which exceptions a command can raise (60_exceptions R239) -/

section

namespace Sys2Proof.Machine

/-- Settles O26: the slot-number check stands first in the frame of every format. -/
theorem missingSlotIsIllegal : Obligations.MissingSlotIsIllegal := by
  unfold Obligations.MissingSlotIsIllegal
  exact fun i s h => exec_of_not_wellFormed i s h

/-- Every command can meet a slot number that does not exist. -/
theorem illegalCommand_mem_mayRaise (i : Instr) : Exc.illegalCommand ∈ mayRaise i := by
  unfold mayRaise
  split
  · simp
  · simp
  · split_ifs <;> simp

/-- The row of a command with a source slot, by the kind of its operands. -/
theorem mayRaise_of_source {i : Instr} (h : i.fields.a ≠ none) : mayRaise i =
    if takesIndex i || takesRange i then [.illegalCommand, .slotInvalid, .indexOutOfRange]
    else if checksCapacity i then [.illegalCommand, .slotInvalid, .capacityMismatch]
    else [.illegalCommand, .slotInvalid] := by
  cases i with
  | new d | rehyd d => exact absurd rfl h
  | _ => rfl

/-- A command with a source field has a source `A`. -/
theorem fields_a_ne_none {i : Instr} {f : SlotNo} (h : i.fields.a = some f ∨ i.fields.b = some f) :
    i.fields.a ≠ none := by
  cases i with
  | new d | rehyd d => rcases h with h | h <;> cases h
  | _ => nofun

/-- A command with a source slot can meet one that holds no vector. -/
theorem slotInvalid_mem_mayRaise {i : Instr} (h : i.fields.a ≠ none) : Exc.slotInvalid ∈ mayRaise i := by
  rw [mayRaise_of_source h]
  split_ifs <;> simp

/-- The commands whose operands are checked against a vector have a source slot. -/
theorem fields_a_ne_none_of_checked {i : Instr} (h : (takesIndex i || takesRange i || checksCapacity i) = true) :
    i.fields.a ≠ none := by
  cases i with
  | new d | rehyd d => cases h
  | _ => nofun

theorem boundsException_eq_some {sh : Option (Word × Nat)} {lo hi : Int} {e : Exc}
    (h : boundsException sh lo hi = some e) : e = .indexOutOfRange := by
  rcases boundsException_cases sh lo hi with hn | hn
  · rw [hn] at h
    cases h
  · exact Option.some.inj (h.symm.trans hn)

/-- The command's own checks raise what its row of R239 gives it. -/
theorem State.ownException_mem_mayRaise {s : State} {i : Instr} {e : Exc} (h : s.ownException i = some e) :
    e ∈ mayRaise i := by
  unfold State.ownException at h
  split_ifs at h with hidx hrange hcap
  · rw [boundsException_eq_some h, mayRaise_of_source (fields_a_ne_none_of_checked (by simp [hidx]))]
    simp [hidx]
  · rw [boundsException_eq_some h, mayRaise_of_source (fields_a_ne_none_of_checked (by simp [hrange]))]
    simp [hrange]
  · obtain rfl : e = .capacityMismatch := by
      rcases capacityException_cases (s.shapeA i) (s.shapeB i) with hn | hn <;> simp_all
    rw [mayRaise_of_source (fields_a_ne_none_of_checked (by simp [hcap]))]
    simp [hidx, hrange, hcap]
  · cases i with
    | new d =>
      rcases s.newException_cases with hn | hn
      · exact absurd (hn.symm.trans h) (by simp)
      · exact Option.some.inj (hn.symm.trans h) ▸ by simp [mayRaise]
    | rehyd d =>
      rcases s.rehydException_cases with hn | hn | hn
      · exact absurd (hn.symm.trans h) (by simp)
      · exact Option.some.inj (hn.symm.trans h) ▸ by simp [mayRaise]
      · exact Option.some.inj (hn.symm.trans h) ▸ by simp [mayRaise]
    | _ => cases h

/-- Settles O30: each of the checks that make up `commandException` raises what R239 gives the command. -/
theorem exceptionsPerCommand : Obligations.ExceptionsPerCommand := by
  unfold Obligations.ExceptionsPerCommand
  intro i s s' e h he
  have hx : s.commandException i = some e := ((exec_endsIn i s).code_eq h).symm.trans he
  unfold State.commandException at hx
  split_ifs at hx with hwf hmiss
  · exact Option.some.inj hx ▸ illegalCommand_mem_mayRaise i
  · obtain ⟨f, hf, -⟩ := hmiss
    exact Option.some.inj hx ▸ slotInvalid_mem_mayRaise (fields_a_ne_none hf)
  · exact State.ownException_mem_mayRaise hx

end Sys2Proof.Machine

end

/-! ### The codec: what `DEHYD` and `TOSTR` write, and back (44_codec) -/

section

namespace Sys2Proof.Machine

/-! #### Sizes -/

/-- An allowed vector has no more words than a slot. -/
theorem PackedVector.Wf.nwords_le {p : Config.Params} {v : PackedVector} (h : v.Wf p) : v.nwords ≤ p.maxwords := by
  obtain ⟨hcap, hsize, -⟩ := h
  simp only [Config.Params.maxcap, Config.bpw] at hcap
  omega

/-- Every word of an allowed vector is below `2^31`. -/
theorem PackedVector.Wf.word_lt {p : Config.Params} {v : PackedVector} (h : v.Wf p) {w : Word} (hw : w ∈ v.words) :
    w.toNat < 2 ^ 31 := by
  obtain ⟨-, -, hall⟩ := h
  have h31 : w.getLsbD 31 = false := by simpa [-BitVec.getLsbD_eq_getElem] using List.all_eq_true.1 hall w hw
  exact BitVec.toNat_lt_of_msb_false h31

/-- A text output that fits the buffer is `WroteText`. -/
theorem wroteText_putText (s : State) {out : List Byte} (h : out.length ≤ s.params.textbytes) :
    s.WroteText ((s.putText out).complete out.length) out := by
  constructor
  · intro j
    change (s.textWrite 0 out).textByte j = _
    simpa using s.textByte_textWrite 0 out j (by omega)
  · simp only [State.complete, State.putText, State.textWrite, Status.completed, u32, BitVec.ofInt_natCast]

/-! #### The text of `DEHYD` -/

theorem drop_length_takeWhile (l : List Word) (p : Word → Bool) : l.drop (l.takeWhile p).length = l.dropWhile p := by
  have h : (l.takeWhile p ++ l.dropWhile p).drop (l.takeWhile p).length = l.dropWhile p := List.drop_left
  rwa [List.takeWhile_append_dropWhile] at h

theorem takeWhile_zero_eq (l : List Word) :
    l.takeWhile (· == 0) = List.replicate (l.takeWhile (· == 0)).length 0 :=
  List.eq_replicate_iff.2 ⟨rfl, fun w hw => by simpa using List.mem_takeWhile_imp hw⟩

/-- A list is its leading zeros and the rest; the rest is what is left of it without its last zeros, and those. -/
theorem PackedVector.exists_words_eq (v : PackedVector) : ∃ tz, v.words =
    List.replicate v.leadingZeroWords 0 ++ (v.strippedWords ++ List.replicate tz 0) := by
  have hrest : v.words.dropWhile (· == 0) =
      v.strippedWords ++ ((v.words.dropWhile (· == 0)).reverse.takeWhile (· == 0)).reverse := by
    rw [PackedVector.strippedWords, PackedVector.leadingZeroWords, drop_length_takeWhile, ← List.reverse_append,
      List.takeWhile_append_dropWhile, List.reverse_reverse]
  rw [takeWhile_zero_eq, List.reverse_replicate] at hrest
  exact ⟨_, by rw [← hrest, PackedVector.leadingZeroWords, ← takeWhile_zero_eq, List.takeWhile_append_dropWhile]⟩

/-- A vector's words are its leading zero words, the emitted ones, and zero words (R210, R211). -/
theorem PackedVector.words_eq (v : PackedVector) :
    v.leadingZeroWords + v.strippedWords.length ≤ v.nwords ∧ v.words =
      List.replicate v.leadingZeroWords 0 ++ v.strippedWords ++
        List.replicate (v.nwords - v.leadingZeroWords - v.strippedWords.length) 0 := by
  obtain ⟨tz, h⟩ := v.exists_words_eq
  have hlen : v.nwords = v.leadingZeroWords + (v.strippedWords.length + tz) := by
    rw [PackedVector.nwords, h]
    simp
  refine ⟨by omega, ?_⟩
  rw [show v.nwords - v.leadingZeroWords - v.strippedWords.length = tz by omega, List.append_assoc]
  exact h

theorem PackedVector.strippedWords_subset (v : PackedVector) {w : Word} (h : w ∈ v.strippedWords) : w ∈ v.words := by
  rw [v.words_eq.2]
  simp [h]

/-- The numbers of the text of `DEHYD` (R210). -/
def PackedVector.dehydratedNumbers (v : PackedVector) : List Nat :=
  v.strippedWords.map BitVec.toNat ++ [v.leadingZeroWords, v.mb]

/-- The text of `DEHYD` is its numbers, in decimal, with commas between. -/
theorem PackedVector.dehydrated_eq (v : PackedVector) :
    v.dehydrated = List.intercalate [comma] (v.dehydratedNumbers.map dec) := by
  have h (ws : List Word) (x y : Nat) : List.intercalate [comma] ((ws.map BitVec.toNat ++ [x, y]).map dec) =
      ws.flatMap (fun w => dec w.toNat ++ [comma]) ++ dec x ++ [comma] ++ dec y := by
    induction ws with
    | nil => simp [List.intercalate_cons_cons]
    | cons w ws ih =>
      obtain ⟨g, gs, hg⟩ := List.exists_cons_of_ne_nil
        (show (ws.map BitVec.toNat ++ [x, y]).map dec ≠ [] by simp)
      rw [List.map_cons, List.cons_append, List.map_cons, hg, List.intercalate_cons_cons, ← hg, ih]
      simp
  exact (h _ _ _).symm

theorem dec_ne_nil (n : Nat) : dec n ≠ [] := by
  induction n using decimal_induction with
  | small n h => simp [dec_of_lt_ten h]
  | large n h ih => simp [dec_of_ten_le h]

/-- The lexical pass reads numerals below `2^32` back. -/
theorem lexText_numerals {nums : List Nat} (hne : nums ≠ []) (h : ∀ n ∈ nums, n < 2 ^ 32) :
    lexText (List.intercalate [comma] (nums.map dec)) none [] = some nums := by
  rw [lexText_intercalate (by simpa using hne)]
  · simp [Function.comp_def]
  · intro g hg
    obtain ⟨n, hn, rfl⟩ := List.mem_map.1 hg
    exact ⟨dec_ne_nil n, dec_digits n, by simpa using h n hn⟩

/-- Building from the numbers of a vector's text gives the vector. -/
theorem PackedVector.rebuilt_self {p : Config.Params} {v : PackedVector} (hv : v.Wf p) :
    rebuilt (v.strippedWords.map BitVec.toNat) v.leadingZeroWords v.mb = v := by
  have hwords := v.words_eq.2
  rw [hv.2.1] at hwords
  have hmb : BitVec.ofNat 32 v.mb = v.maxBit := by simp [PackedVector.mb]
  have hid : (v.strippedWords.map BitVec.toNat).map (BitVec.ofNat 32) = v.strippedWords := by
    simp [Function.comp_def]
  rw [rebuilt, PackedVector.make, hmb, hid, List.length_map, ← hwords]

/-- THE ROUND TRIP on texts (R228): the text of an allowed vector decodes to the vector. -/
theorem PackedVector.rehydrated_dehydrated {p : Config.Params} {v : PackedVector} (hp : p.Legal) (hv : v.Wf p) :
    rehydrated p v.dehydrated = .ok v := by
  have hcap := maxcap_lt hp
  have ⟨hmb, hsize, _⟩ := hv
  obtain ⟨hlen, -⟩ := v.words_eq
  have hword : ∀ x ∈ v.strippedWords.map BitVec.toNat, x < 2 ^ 31 := by
    intro x hx
    obtain ⟨w, hw, rfl⟩ := List.mem_map.1 hx
    exact PackedVector.Wf.word_lt hv (v.strippedWords_subset hw)
  have hlex : lexText v.dehydrated none [] = some v.dehydratedNumbers := by
    rw [v.dehydrated_eq]
    refine lexText_numerals (by simp [PackedVector.dehydratedNumbers]) fun n hn => ?_
    rcases List.mem_append.1 hn with hn | hn
    · exact (hword n hn).trans (by decide)
    · rcases (by simpa using hn : n = v.leadingZeroWords ∨ n = v.mb) with rfl | rfl <;> omega
  have hbad : ¬ (v.mb / 31 + 1 < v.leadingZeroWords + (v.strippedWords.map BitVec.toNat).length ∨
      ∃ x ∈ v.strippedWords.map BitVec.toNat, 2 ^ 31 ≤ x) := by
    rintro (h | ⟨x, hx, h⟩)
    · rw [List.length_map] at h
      omega
    · exact Nat.not_lt.2 h (hword x hx)
  rw [rehydrated, hlex]
  exact (rebuild_append hp _ _ _).trans
    (by rw [if_neg (Nat.not_le.2 hmb), if_neg hbad, PackedVector.rebuilt_self hv])

/-! #### The length of the text (R213) -/

theorem dec_length_le {n k : Nat} (hk : 1 ≤ k) (h : n < 10 ^ k) : (dec n).length ≤ k := by
  induction n using decimal_induction generalizing k with
  | small n hn => simpa [dec_of_lt_ten hn] using hk
  | large n hn ih =>
    obtain ⟨k, rfl⟩ : ∃ j, k = j + 1 := ⟨k - 1, by omega⟩
    have hk1 : 1 ≤ k := by
      by_contra h0
      obtain rfl : k = 0 := by omega
      omega
    have := ih hk1 (by rw [pow_succ] at h; omega)
    simpa [dec_of_ten_le hn] using this

/-- Each emitted word takes at most ten digits and a comma. -/
theorem emitted_length_le {ws : List Word} (h : ∀ w ∈ ws, w.toNat < 2 ^ 31) :
    (ws.flatMap fun w => dec w.toNat ++ [comma]).length ≤ 11 * ws.length := by
  induction ws with
  | nil => simp
  | cons w ws ih =>
    obtain ⟨hw, hws⟩ := List.forall_mem_cons.1 h
    have h10 : (dec w.toNat).length ≤ 10 := dec_length_le (by decide) (hw.trans (by decide))
    have := ih hws
    simp only [List.flatMap_cons, List.length_append, List.length_cons, List.length_nil]
    omega

theorem PackedVector.dehydrated_length_le {p : Config.Params} {v : PackedVector} (hp : p.Legal) (hv : v.Wf p) :
    v.dehydrated.length ≤ 11 * v.nwords + 21 := by
  have hcap := maxcap_lt hp
  have ⟨hmb, hsize, _⟩ := hv
  obtain ⟨hlen, -⟩ := v.words_eq
  have hemit := emitted_length_le fun w hw => PackedVector.Wf.word_lt hv (v.strippedWords_subset hw)
  have hlz : (dec v.leadingZeroWords).length ≤ 10 := dec_length_le (by decide) (by omega)
  have hmb10 : (dec v.mb).length ≤ 10 := dec_length_le (by decide) (by omega)
  simp only [PackedVector.dehydrated, List.length_append, List.length_cons, List.length_nil]
  omega

theorem PackedVector.dehydrated_fits {p : Config.Params} {v : PackedVector} (hp : p.Legal) (hv : v.Wf p) :
    v.dehydrated.length ≤ p.textbytes := by
  have hlen := PackedVector.dehydrated_length_le hp hv
  have hn := PackedVector.Wf.nwords_le hv
  obtain ⟨-, -, htext, -⟩ := hp
  omega

/-! #### The obligations about `DEHYD` -/

/-- Settles O56: eleven bytes a word, and two numbers of at most ten digits with a comma. -/
theorem dehydLengthBound : Obligations.DehydLengthBound := by
  unfold Obligations.DehydLengthBound
  exact fun p v hp hv => ⟨PackedVector.dehydrated_length_le hp hv, PackedVector.dehydrated_fits hp hv⟩

/-- Settles O57: a text decodes to one vector only. -/
theorem dehydratedTextIsAKey : Obligations.DehydratedTextIsAKey := by
  unfold Obligations.DehydratedTextIsAKey
  refine fun p v u hp hv hu => ⟨fun h => ?_, fun h => h ▸ rfl⟩
  have hvu := (PackedVector.rehydrated_dehydrated hp hv).symm.trans (h ▸ PackedVector.rehydrated_dehydrated hp hu)
  exact Except.ok.inj hvu

theorem exec_dehyd {a : SlotNo} {s : State} {v : PackedVector} (h : s.Holds a v) :
    exec (.dehyd a) s = .next ((s.putText v.dehydrated).complete v.dehydrated.length) :=
  commandA_runs a s _ v h.1 h.2

/-- `REHYD` of a text within the buffer that decodes stores the vector. -/
theorem exec_rehyd_of_ok {d : SlotNo} {s : State} {v : PackedVector} (hd : s.hasSlot d = true)
    (hlen : s.textlen.toNat ≤ s.params.textbytes)
    (hv : rehydrated s.params (s.textRead s.textlen.toNat) = .ok v) :
    exec (.rehyd d) s = .next (s.storedIn d v) := by
  change execRehyd d s = _
  rw [execRehyd, commandD_runs d s _ hd, if_neg (Nat.not_lt.2 hlen), hv]
  rfl

/-- Settles O60: the text fits the buffer, `TEXTLEN` is its length, and it decodes to the vector. -/
theorem dehydRehydRoundTrip : Obligations.DehydRehydRoundTrip := by
  unfold Obligations.DehydRehydRoundTrip
  intro a d s v hs hav hd
  have ⟨hp, _, _⟩ := hs
  have hwf := State.Inv.wf hs hav.2
  have hfits := PackedVector.dehydrated_fits hp hwf
  have hlen : (BitVec.ofNat 32 v.dehydrated.length).toNat = v.dehydrated.length := by
    rw [BitVec.toNat_ofNat, Nat.mod_eq_of_lt (hfits.trans_lt hp.2.2.2)]
  have htext : ((s.putText v.dehydrated).complete v.dehydrated.length).textRead v.dehydrated.length = v.dehydrated :=
    s.textRead_putText v.dehydrated hfits
  refine ⟨_, _, exec_dehyd hav, exec_rehyd_of_ok (v := v) hd ?_ ?_, rfl, rfl, State.storedIn_slot_self _ d v⟩
  · rwa [State.complete_textlen, State.putText_textlen, hlen]
  · rw [State.complete_textlen, State.putText_textlen, hlen, htext]
    exact PackedVector.rehydrated_dehydrated hp hwf

end Sys2Proof.Machine

end

/-! ### The texts of `DEHYD` and `TOSTR` written out, and what `REHYD` makes of every text (44_codec) -/

section

namespace Sys2Proof.Machine

/-! #### The three shapes of a word list (44_codec R210 to R212) -/

/-- An all-zero vector has all its words leading, and none to emit (R212). -/
theorem PackedVector.stripped_of_zero {v : PackedVector} (h : ∀ w ∈ v.words, w = 0) :
    v.leadingZeroWords = v.nwords ∧ v.strippedWords = [] := by
  have htake : v.words.takeWhile (· == 0) = v.words := List.takeWhile_eq_self_iff.2 (by simpa using h)
  have hlz : v.leadingZeroWords = v.words.length := by rw [PackedVector.leadingZeroWords, htake]
  exact ⟨hlz, by simp [PackedVector.strippedWords, hlz]⟩

/-- Where a vector's words are zeros, then words `ws` that begin and end with a non-zero one, then zeros, the leading
zeros are the first and the emitted words are `ws` (R210, R211). -/
theorem PackedVector.stripped_of_shape {v : PackedVector} {lz tz : Nat} {ws : List Word} (h0 : ws ≠ [])
    (hfirst : ws.head h0 ≠ 0) (hlast : ws.getLast h0 ≠ 0)
    (h : v.words = List.replicate lz 0 ++ ws ++ List.replicate tz 0) :
    v.leadingZeroWords = lz ∧ v.strippedWords = ws := by
  have hlz : v.leadingZeroWords = lz := by
    obtain ⟨first, rest, rfl⟩ := List.exists_cons_of_ne_nil h0
    rw [PackedVector.leadingZeroWords, h, List.append_assoc, List.takeWhile_append_of_pos (by simp)]
    simpa using hfirst
  refine ⟨hlz, ?_⟩
  have hdrop : v.words.drop lz = ws ++ List.replicate tz 0 := by
    rw [h, List.append_assoc, List.drop_left' (by simp)]
  obtain ⟨init, last, rfl⟩ := List.eq_nil_or_concat ws |>.resolve_left h0
  rw [PackedVector.strippedWords, hlz, hdrop, List.reverse_append, List.reverse_replicate,
    List.dropWhile_append_of_pos (by simp)]
  simpa using hlast

/-- `DEHYD` writes the dehydrated text of an allowed vector. -/
theorem exec_dehyd_wrote {a : SlotNo} {s : State} {v : PackedVector} (hp : s.params.Legal) (h : s.Holds a v)
    (hv : v.Wf s.params) : ∃ t, exec (.dehyd a) s = .next t ∧ s.WroteText t v.dehydrated :=
  ⟨_, exec_dehyd h, wroteText_putText s (PackedVector.dehydrated_fits hp hv)⟩

/-- Settles O55: `stripped_of_zero` and `stripped_of_shape` say what the text is made of. -/
theorem dehydWritesTheStrippedWords : Obligations.DehydWritesTheStrippedWords := by
  unfold Obligations.DehydWritesTheStrippedWords
  intro a s v hp h hv
  obtain ⟨t, hexec, hwrote⟩ := exec_dehyd_wrote hp h hv
  have wrote {out : List Byte} (hout : v.dehydrated = out) : ∃ t, exec (.dehyd a) s = .next t ∧ s.WroteText t out :=
    ⟨t, hexec, hout ▸ hwrote⟩
  refine ⟨fun hz => wrote ?_, fun lz tz first mid last hfirst hlast => ⟨fun hws => wrote ?_, fun hws => wrote ?_⟩⟩
  · obtain ⟨hlz, hstripped⟩ := PackedVector.stripped_of_zero hz
    simp [PackedVector.dehydrated, hlz, hstripped, comma]
  · obtain ⟨hlz, hstripped⟩ :=
      PackedVector.stripped_of_shape (by simp) (by simpa using hfirst) (by simpa using hlast) hws
    simp only [PackedVector.dehydrated, hlz, hstripped, comma]
  · obtain ⟨hlz, hstripped⟩ :=
      PackedVector.stripped_of_shape (by simp) (by simpa using hfirst) (by simpa using hfirst) hws
    simp [PackedVector.dehydrated, hlz, hstripped, comma]

/-! #### The text of `TOSTR` (44_codec R203, R204) -/

/-- Character `q` of a word's group is bit `30 - q`. -/
theorem binaryGroup_getElem? (x : Word) {q : Nat} (hq : q < 31) :
    (binaryGroup x)[q]? = some (if x.getLsbD (30 - q) then 0x31 else 0x30) := by
  rw [binaryGroup, List.getElem?_map, List.getElem?_reverse (by simpa using hq), List.length_range,
    show 31 - 1 - q = 30 - q by omega, List.getElem?_range (by omega)]
  rfl

/-- Element `p` of equally long groups is element `p mod n` of group `p div n`. -/
theorem getElem?_flatMap_groups {f : Word → List Byte} {n : Nat} (hn : 0 < n) (hf : ∀ x, (f x).length = n)
    (l : List Word) (p : Nat) : (l.flatMap f)[p]? = l[p / n]?.bind fun x => (f x)[p % n]? := by
  induction l generalizing p with
  | nil => simp
  | cons x l ih =>
    rw [List.flatMap_cons]
    by_cases hp : p < n
    · rw [List.getElem?_append_left (by rwa [hf]), Nat.div_eq_of_lt hp, Nat.mod_eq_of_lt hp]
      rfl
    · obtain ⟨p, rfl⟩ : ∃ q, p = q + n := ⟨p - n, by omega⟩
      rw [List.getElem?_append_right (by rw [hf]; omega), hf, Nat.add_sub_cancel, ih, Nat.add_div_right p hn,
        Nat.add_mod_right, List.getElem?_cons_succ]

theorem PackedVector.binaryText_length (v : PackedVector) : v.binaryText.length = 31 * v.nwords := by
  simp [PackedVector.binaryText, PackedVector.nwords, List.length_flatMap, Nat.mul_comm]

/-- Character `p` of the text is the bit at `31 * nwords - 1 - p`. -/
theorem PackedVector.binaryText_getElem? (v : PackedVector) {p : Nat} (hp : p < 31 * v.nwords) :
    v.binaryText[p]? = some (if v.bit (31 * v.nwords - 1 - p) then 0x31 else 0x30) := by
  have hword : (31 * v.nwords - 1 - p) / 31 = v.words.length - 1 - p / 31 := by
    rw [PackedVector.nwords] at hp ⊢
    omega
  have hbit : (31 * v.nwords - 1 - p) % 31 = 30 - p % 31 := by omega
  have hlt : p / 31 < v.words.length := by
    rw [PackedVector.nwords] at hp
    omega
  rw [PackedVector.binaryText, getElem?_flatMap_groups (by decide) binaryGroup_length, List.getElem?_reverse hlt,
    List.getElem?_eq_getElem (by omega), Option.bind_some, binaryGroup_getElem? _ (Nat.mod_lt p (by decide)),
    PackedVector.bit, hword, hbit, v.word_of_lt _ (by omega)]

/-- Settles O54: the groups of 31 characters stand in the order of the words, the highest first. -/
theorem tostrWritesTheBits : Obligations.TostrWritesTheBits := by
  unfold Obligations.TostrWritesTheBits
  intro a s v hp h hv
  have hfits : v.binaryText.length ≤ s.params.textbytes := by
    have hn := PackedVector.Wf.nwords_le hv
    obtain ⟨-, -, htext, -⟩ := hp
    rw [v.binaryText_length]
    omega
  exact ⟨_, v.binaryText, commandA_runs a s _ v h.1 h.2, wroteText_putText s hfits, v.binaryText_length,
    fun p hp => v.binaryText_getElem? hp⟩

/-! #### What `REHYD` does with every text (44_codec R220) -/

/-- Settles O59: `rebuild_append` makes the checks in the order of R220. -/
theorem rehydBuildsTheVector : Obligations.RehydBuildsTheVector := by
  unfold Obligations.RehydBuildsTheVector
  intro d s hp hd
  refine ⟨fun hlong => ?_, fun hlen => ⟨fun n hn => exec_rehyd_of_error hd hlen ?_, fun given lz mb hlex => ?_⟩⟩
  · change execRehyd d s = _
    rw [execRehyd, commandD_runs d s _ hd, if_pos hlong]
    rfl
  · rcases hn with hn | hn
    · rw [rehydrated, hn]
    · rw [rehydrated, hn]
      exact rebuild_of_short s.params (by simp)
  · have hre := rebuild_append hp given lz mb
    have hdec : rehydrated s.params (s.textRead s.textlen.toNat) = rebuild s.params (given ++ [lz, mb]) := by
      rw [rehydrated, hlex]
    rw [← hdec] at hre
    refine ⟨fun hcap => ?_, fun hcap hbad => ?_, fun hcap hfit hlt => ?_⟩
    · exact exec_rehyd_of_error hd hlen (by rw [hre, if_pos hcap])
    · exact exec_rehyd_of_error hd hlen (by rw [hre, if_neg (Nat.not_le.2 hcap), if_pos hbad])
    · have hgood : ¬ (mb / 31 + 1 < lz + given.length ∨ ∃ x ∈ given, 2 ^ 31 ≤ x) := by
        rintro (h | ⟨x, hx, h⟩)
        · omega
        · exact Nat.not_lt.2 h (hlt x hx)
      rw [if_neg (Nat.not_le.2 hcap), if_neg hgood] at hre
      exact ⟨_, exec_rehyd_of_ok hd hlen hre, rebuilt_mb hp hcap given lz, rebuilt_nwords hfit,
        fun k _ => rebuilt_word_toNat lz mb k hlt⟩

end Sys2Proof.Machine

end

/-! ### Steps, registers and `STATUS` as the host sees them (10_state R32 to R37, 20_memory R52) -/

section

namespace Sys2Proof.Machine

/-- Settles O5: a step performs the head of the inputs. -/
theorem stepRunsDecodedCommand : Obligations.StepRunsDecodedCommand := by
  unfold Obligations.StepRunsDecodedCommand
  intro s rest
  have run (i : Input) (h : s.pending = i :: rest) : step s = perform i { s with pending := rest } := by
    simp only [step, h]
  refine ⟨run, fun t => run (.txn t), fun a => run (.bus a), run .reset, fun x i h hdec => ?_⟩
  rw [step_of_cmdWrite h, writeCmd, hdec]

/-- Settles O6: the first case of `step`. -/
theorem idleEngineHoldsItsState : Obligations.IdleEngineHoldsItsState := by
  unfold Obligations.IdleEngineHoldsItsState
  intro s h
  simp only [step, h]

/-- Settles O7: each register by the case of `readReg` or `writeReg` that is its own. -/
theorem registerTransactions : Obligations.RegisterTransactions := by
  unfold Obligations.RegisterTransactions
  refine fun s x r => ⟨rfl, rfl, rfl, rfl, rfl, rfl, rfl, rfl, rfl, fun hr => ?_⟩
  change writeReg r x s = _
  rcases writeReg_cases r x s with ⟨rfl, -⟩ | ⟨rfl, -⟩ | ⟨rfl, -⟩ | ⟨rfl, -⟩ | ⟨rfl, -⟩ | h
  · simp at hr
  · simp at hr
  · simp at hr
  · simp at hr
  · simp at hr
  · exact h

/-- Bit `k` of `VALID`. -/
theorem State.validBits_getLsbD (s : State) (k : Nat) :
    s.validBits.getLsbD k = if h : k < 16 then s.hasSlot ⟨k, h⟩ && (s.slot ⟨k, h⟩).isSome else false := by
  rw [State.validBits, BitVec.getLsbD_setWidth, BitVec.getLsbD_ofFnLE]
  split
  · simp [show k < 32 by omega]
  · simp

/-- A legal parameter fits its register. -/
theorem params_lt {p : Config.Params} (hp : p.Legal) :
    p.nslots < 2 ^ 32 ∧ p.maxwords < 2 ^ 32 ∧ p.textbytes < 2 ^ 32 := by
  obtain ⟨⟨-, hn⟩, ⟨-, hw⟩, -, ht⟩ := hp
  omega

/-- Settles O8: `VALID` bit by bit, the two registers of a slot by what it holds. -/
theorem informationRegisters : Obligations.InformationRegisters := by
  unfold Obligations.InformationRegisters
  intro s hp
  obtain ⟨hn, hw, ht⟩ := params_lt hp
  refine ⟨fun f => ?_, fun k hk => ?_, fun f hf => ⟨fun hv => ?_, fun v hv => ?_⟩, ?_, ?_, ?_⟩
  · exact (s.validBits_getLsbD f).trans (dif_pos f.isLt)
  · refine (s.validBits_getLsbD k).trans ?_
    split
    · simp [State.hasSlot, Nat.not_lt.2 hk]
    · rfl
  · simp [State.readReg, State.maxBitWord, State.nwordsWord, State.hasSlot, hf, hv]
  · simp [State.readReg, State.maxBitWord, State.nwordsWord, State.hasSlot, hf, hv]
  · exact Nat.mod_eq_of_lt hn
  · exact Nat.mod_eq_of_lt hw
  · exact Nat.mod_eq_of_lt ht

/-! #### `STATUS` (10_state R35) -/

/-- The number in `CODE`. -/
def Status.codeNumber (t : Status) : Nat := (t.code.map Exc.code).getD 0

theorem Status.codeNumber_lt (t : Status) : t.codeNumber < 2 ^ 4 := by
  unfold Status.codeNumber
  cases t.code with
  | none => decide
  | some e => cases e <;> decide

theorem Status.toWord_toNat (t : Status) : t.toWord.toNat = t.codeNumber + if t.sticky then 2 ^ 8 else 0 := by
  have h := t.codeNumber_lt
  rw [Status.toWord, BitVec.toNat_ofNat]
  refine Nat.mod_eq_of_lt ?_
  change t.codeNumber + _ < _
  split <;> omega

/-- Bit `k` of `STATUS`: `STICKY` stands in bit 8, `CODE` below bit 4. -/
theorem Status.toWord_getLsbD (t : Status) (k : Nat) :
    t.toWord.getLsbD k = (t.codeNumber.testBit k || (t.sticky && decide (k = 8))) := by
  have h := t.codeNumber_lt
  rw [BitVec.getLsbD, t.toWord_toNat]
  cases t.sticky with
  | false => simp
  | true =>
    have hor : 2 ^ 8 + t.codeNumber = 2 ^ 8 ||| t.codeNumber := by
      simpa using Nat.two_pow_add_eq_or_of_lt (i := 8) (b := t.codeNumber) (by omega) 1
    rw [if_pos rfl, Nat.add_comm, hor, Nat.testBit_or, Nat.testBit_two_pow, Bool.or_comm, Bool.true_and]
    simp [eq_comm]

theorem Status.codeNumber_testBit (t : Status) {k : Nat} (hk : 4 ≤ k) : t.codeNumber.testBit k = false :=
  Nat.testBit_lt_two_pow (t.codeNumber_lt.trans_le (Nat.pow_le_pow_right (by decide) hk))

@[simp] theorem Status.hostWrite_codeNumber (t : Status) (x : Word) : (t.hostWrite x).codeNumber = t.codeNumber := by
  rw [Status.codeNumber, Status.hostWrite_code, Status.codeNumber]

/-- Settles O9: the layout bit by bit; a host write keeps `CODE` and masks `STICKY` with bit 8 of the value. -/
theorem statusLayoutAndWriteOneToClear : Obligations.StatusLayoutAndWriteOneToClear := by
  unfold Obligations.StatusLayoutAndWriteOneToClear
  intro s x
  have hlt := s.status.codeNumber_lt
  refine ⟨⟨?_, ?_, fun k hk => ?_⟩, s.writeStatus x, rfl, rfl, fun k => ?_⟩
  · change s.status.toWord.toNat % 16 = s.status.codeNumber
    rw [s.status.toWord_toNat]
    split <;> omega
  · change s.status.toWord.getLsbD 8 = _
    simp [Status.toWord_getLsbD, Status.codeNumber_testBit, -BitVec.getLsbD_eq_getElem]
  · change s.status.toWord.getLsbD k = false
    simp [Status.toWord_getLsbD, s.status.codeNumber_testBit (show 4 ≤ k by omega), show k ≠ 8 by omega]
  · change (s.status.hostWrite x).toWord.getLsbD k =
      if k = 8 then s.status.toWord.getLsbD 8 && !x.getLsbD 8 else s.status.toWord.getLsbD k
    simp only [Status.toWord_getLsbD, Status.hostWrite_codeNumber, Status.hostWrite_sticky]
    split
    · next h => simp [h, Status.codeNumber_testBit, -BitVec.getLsbD_eq_getElem]
    · next h => simp [h]

/-- Settles O11: a transaction but a `CMD` write is a read, a text write or a plain register write. -/
theorem onlyCommandWritesRaise : Obligations.OnlyCommandWritesRaise := by
  unfold Obligations.OnlyCommandWritesRaise
  intro t s hcmd
  cases t with
  | regRead r => exact ⟨_, rfl, rfl, id, rfl, rfl, rfl⟩
  | textRead i => exact ⟨_, rfl, rfl, id, rfl, rfl, rfl⟩
  | textWrite i b =>
    refine ⟨_, rfl, ?_⟩
    rw [s.hostTextWrite_frame i b]
    exact ⟨rfl, id, rfl, rfl, rfl⟩
  | regWrite r x =>
    change ∃ s', writeReg r x s = .next s' ∧ _
    rcases writeReg_cases r x s with ⟨rfl, -⟩ | ⟨-, h⟩ | ⟨-, h⟩ | ⟨-, h⟩ | ⟨-, h⟩ | h
    · exact absurd rfl (hcmd x)
    · exact ⟨_, h, rfl, id, rfl, rfl, rfl⟩
    · exact ⟨_, h, rfl, id, rfl, rfl, rfl⟩
    · refine ⟨_, h, s.status.hostWrite_code x, fun hs => ?_, rfl, rfl, rfl⟩
      rw [State.writeStatus_status, Status.hostWrite_sticky, Bool.and_eq_true] at hs
      exact hs.1
    · exact ⟨_, h, rfl, id, rfl, rfl, rfl⟩
    · exact ⟨_, h, rfl, id, rfl, rfl, rfl⟩

/-! #### Reset (10_state R42, 70_reset R260) -/

/-- Settles O16: no slot of the reset state holds a vector. -/
theorem resetValues : Obligations.ResetValues := by
  unfold Obligations.ResetValues
  intro p f
  have hvalid : (State.resetOf p).validBits = 0 := by
    apply BitVec.eq_of_getLsbD_eq
    intro k hk
    rw [State.validBits_getLsbD]
    split <;> simp
  refine ⟨State.resetOf_slot p f, rfl, rfl, rfl, rfl, rfl, rfl, hvalid, fun hf => ?_, fun i => rfl, rfl⟩
  have hslot : (State.resetOf p).hasSlot f = true := decide_eq_true hf
  simp [State.readReg, State.maxBitWord, State.nwordsWord, hslot]

/-- Settles O17: the step of a reset input is `applyReset`. -/
theorem externalResetClearsTheBlock : Obligations.ExternalResetClearsTheBlock := by
  unfold Obligations.ExternalResetClearsTheBlock
  intro s rest h
  exact ⟨({ s with pending := rest } : State).applyReset, by simp only [step, h, perform_reset],
    State.applyReset_slot _, rfl, rfl, rfl, rfl, rfl, rfl, fun i => rfl, rfl, rfl, rfl⟩

end Sys2Proof.Machine

end

/-! ### Text transactions and the default bus binding (20_memory R52 to R58) -/

section

namespace Sys2Proof.Machine

/-! #### The text buffer, byte by byte -/

theorem State.textByte_hostTextWrite (s : State) {i : Nat} (b : Byte) (j : Nat) (h : i < s.params.textbytes) :
    (s.hostTextWrite i b).textByte j = if j = i then b else s.textByte j := by
  rw [State.hostTextWrite, if_pos h, s.textByte_textWrite i [b] j (by simpa using h)]
  by_cases hj : j = i
  · simp [hj]
  · rw [if_neg hj]
    split
    · rw [List.getElem?_eq_none (by simp; omega)]
      rfl
    · rfl

theorem State.hostTextWrite_outside (s : State) {i : Nat} (b : Byte) (h : s.params.textbytes ≤ i) :
    s.hostTextWrite i b = s := if_neg (Nat.not_lt.2 h)

@[simp] theorem State.hostTextWrite_params (s : State) (i : Nat) (b : Byte) :
    (s.hostTextWrite i b).params = s.params := by rw [s.hostTextWrite_frame]

/-- What the host reads after it has written a byte. -/
theorem State.hostTextRead_hostTextWrite (s : State) (i : Nat) (b : Byte) (j : Nat) :
    (s.hostTextWrite i b).hostTextRead j = if j = i ∧ j < s.params.textbytes then b else s.hostTextRead j := by
  by_cases h : i < s.params.textbytes
  · rw [State.hostTextRead, s.textByte_hostTextWrite b j h, s.hostTextWrite_params, State.hostTextRead]
    by_cases hj : j = i
    · simp [hj, h]
    · simp [hj]
  · rw [s.hostTextWrite_outside b (Nat.not_lt.1 h), if_neg (by omega)]

/-- Settles O10: inside the buffer a write changes its byte; outside, nothing. -/
theorem textTransactions : Obligations.TextTransactions := by
  unfold Obligations.TextTransactions
  intro s i b
  refine ⟨fun h => ⟨⟨_, rfl, s.hostTextWrite_frame i b, fun j => s.textByte_hostTextWrite b j h⟩, ?_⟩,
    fun h => ⟨?_, ?_⟩⟩
  · simp [performTxn, State.observe, State.hostTextRead, h]
  · rw [performTxn, s.hostTextWrite_outside b h]
  · simp [performTxn, State.observe, State.hostTextRead, Nat.not_lt.2 h]

/-! #### The transactions of `TEXT` (30_encoding R86) -/

theorem performAll_append {is : List Input} {s t : State} (h : performAll is s = .next t) (js : List Input) :
    performAll (is ++ js) s = performAll js t := by
  induction is generalizing s with
  | nil =>
    obtain rfl : s = t := by simpa [performAll] using h
    rfl
  | cons i is ih =>
    rw [performAll] at h
    rw [List.cons_append, performAll]
    split at h
    · next s' hs' => exact ih h
    · cases h
    · cases h

/-- The byte writes of `TEXT`, the first at address `n`. -/
theorem performAll_textWrites (cs : List Byte) (n : Nat) (s : State) (h : n + cs.length ≤ s.params.textbytes) :
    ∃ t, performAll ((cs.zipIdx n).map fun c => .txn (.textWrite c.2 c.1)) s = .next t ∧ t = { s with text := t.text } ∧
      ∀ j, t.textByte j = if n ≤ j then (cs[j - n]?).getD (s.textByte j) else s.textByte j := by
  induction cs generalizing n s with
  | nil => exact ⟨s, rfl, rfl, by simp⟩
  | cons c cs ih =>
    rw [List.length_cons] at h
    obtain ⟨t, hrun, hframe, hbyte⟩ := ih (n + 1) (s.hostTextWrite n c) (by rw [s.hostTextWrite_params]; omega)
    refine ⟨t, hrun, by rw [hframe, s.hostTextWrite_frame], fun j => ?_⟩
    rw [hbyte j, s.textByte_hostTextWrite c j (by omega)]
    rcases Nat.lt_trichotomy j n with hj | rfl | hj
    · rw [if_neg (by omega), if_neg (by omega), if_neg (by omega)]
    · simp
    · obtain ⟨k, rfl⟩ : ∃ k, j = n + 1 + k := ⟨j - (n + 1), by omega⟩
      rw [if_pos (by omega), if_neg (by omega), if_pos (by omega), show n + 1 + k - n = k + 1 by omega,
        Nat.add_sub_cancel_left, List.getElem?_cons_succ]

/-- Settles O15: the byte writes, by induction on the characters, then the write of `TEXTLEN`. -/
theorem textMacroLoadsTheBuffer : Obligations.TextMacroLoadsTheBuffer := by
  unfold Obligations.TextMacroLoadsTheBuffer
  intro s cs h
  obtain ⟨t, hrun, hframe, hbyte⟩ := performAll_textWrites cs 0 s (by omega)
  refine ⟨{ t with textlen := BitVec.ofNat 32 cs.length }, performAll_append hrun _, ?_, fun j => ?_⟩
  · rw [hframe]
  · exact (hbyte j).trans (by simp)

/-! #### The address map (20_memory R58) -/

/-- The offsets of the slots' registers, and above. -/
theorem regPlace_of_ge (p : Config.Params) {o : Nat} (h : 16 ≤ o / 4) :
    regPlace p o =
      if hk : 16 ≤ o / 4 ∧ o / 4 < 48 then
        if (o / 4 - 16) / 2 < p.nslots then
          if o / 4 % 2 = 0 then some (.maxBitOf ⟨(o / 4 - 16) / 2, by omega⟩)
          else some (.nwordsOf ⟨(o / 4 - 16) / 2, by omega⟩)
        else none
      else none := by
  unfold regPlace
  split
  case h_11 => rfl
  all_goals omega

theorem regPlace_maxBitOf (p : Config.Params) {o : Nat} (f : SlotNo) (hf : f.val < p.nslots)
    (h : o / 4 = 16 + 2 * f.val) : regPlace p o = some (.maxBitOf f) := by
  have hslot : (o / 4 - 16) / 2 = f.val := by omega
  rw [regPlace_of_ge p (by omega), dif_pos ⟨by omega, by omega⟩, if_pos (hslot ▸ hf), if_pos (by omega)]
  simp only [hslot]

theorem regPlace_nwordsOf (p : Config.Params) {o : Nat} (f : SlotNo) (hf : f.val < p.nslots)
    (h : o / 4 = 17 + 2 * f.val) : regPlace p o = some (.nwordsOf f) := by
  have hslot : (o / 4 - 16) / 2 = f.val := by omega
  rw [regPlace_of_ge p (by omega), dif_pos ⟨by omega, by omega⟩, if_pos (hslot ▸ hf), if_neg (by omega)]
  simp only [hslot]

/-- The holes of R58, and everything from the text window on, are no register's place. -/
theorem regPlace_hole (p : Config.Params) {o : Nat} (h : (0x01C ≤ o ∧ o < 0x020) ∨ (0x02C ≤ o ∧ o < 0x040) ∨
    0x040 + 8 * p.nslots ≤ o ∨ 0x1000 ≤ o) : regPlace p o = none := by
  by_cases h16 : 16 ≤ o / 4
  · rw [regPlace_of_ge p h16]
    split_ifs
    · omega
    · omega
    · rfl
    · rfl
  · have hk : o / 4 = 7 ∨ o / 4 = 11 ∨ o / 4 = 12 ∨ o / 4 = 13 ∨ o / 4 = 14 ∨ o / 4 = 15 := by omega
    rcases hk with hk | hk | hk | hk | hk | hk <;> simp [regPlace, hk]

/-- The four bytes from offset `c`, a multiple of 4, are the place of register `r`. -/
def PlacedAt (p : Config.Params) (c : Nat) (r : Reg) : Prop :=
  c % 4 = 0 ∧ ∀ o, o / 4 = c / 4 → regPlace p o = some r

/-- The address map of R58, with the two registers of slot `f` where it exists. -/
def addressMap (p : Config.Params) (f : SlotNo) : List (Nat × Reg) :=
  [((0x000 : Nat), Reg.cmd), (0x004, .arg0), (0x008, .arg1), (0x00C, .status), (0x010, .res), (0x014, .textlen),
    (0x018, .valid), (0x020, .nslotsR), (0x024, .maxwordsR), (0x028, .textbytesR)] ++
    (if f.val < p.nslots then [(0x040 + 8 * f.val, .maxBitOf f), (0x044 + 8 * f.val, .nwordsOf f)] else [])

theorem placedAt_of_mem_addressMap {p : Config.Params} {f : SlotNo} {c : Nat × Reg} (hc : c ∈ addressMap p f) :
    PlacedAt p c.1 c.2 := by
  rcases List.mem_append.1 hc with hc | hc
  · have fixed {c : Nat} {r : Reg} (h4 : c % 4 = 0) (h : regPlace p c = some r)
        (hcongr : ∀ o, o / 4 = c / 4 → regPlace p o = regPlace p c) : PlacedAt p c r :=
      ⟨h4, fun o ho => (hcongr o ho).trans h⟩
    have same (c : Nat) (o : Nat) (ho : o / 4 = c / 4) : regPlace p o = regPlace p c := by
      unfold regPlace
      rw [ho]
    fin_cases hc <;> exact fixed rfl rfl (same _)
  · split at hc
    · next hf =>
      rcases (by simpa using hc : c = _ ∨ c = _) with rfl | rfl
      · exact ⟨by simp only; omega, fun o ho => regPlace_maxBitOf p f hf (by simp only at ho; omega)⟩
      · exact ⟨by simp only; omega, fun o ho => regPlace_nwordsOf p f hf (by simp only at ho; omega)⟩
    · simp at hc

/-! #### The targets of an access (20_memory R55) -/

theorem BusWidth.bytes_pos (w : BusWidth) : 0 < w.bytes := by
  cases w <;> decide

theorem busTarget_bytes {p : Config.Params} {w : BusWidth} {o : Nat} (h : ∀ k < w.bytes, regPlace p (o + k) = none) :
    busTarget p w o = .bytes := by
  have hnone : (List.range w.bytes).findSome? (fun k => regPlace p (o + k)) = none :=
    List.findSome?_eq_none_iff.2 fun k hk => h k (List.mem_range.1 hk)
  rw [busTarget, hnone]

theorem busTarget_register {p : Config.Params} {c : Nat} {r : Reg} (h : PlacedAt p c r) :
    busTarget p .word c = .register r := by
  obtain ⟨h4, hplace⟩ := h
  have hsome : (List.range BusWidth.word.bytes).findSome? (fun k => regPlace p (c + k)) = some r := by
    simp [BusWidth.bytes, List.range_succ_eq_map, hplace c rfl]
  simp only [busTarget, hsome, h4, and_self, if_true]

/-- An access that touches a register's place and is not the 32-bit access at its offset is refused. -/
theorem busTarget_refused {p : Config.Params} {c : Nat} {r : Reg} (h : PlacedAt p c r) {w : BusWidth} {o : Nat}
    (h0 : o < c + 4) (h1 : c < o + w.bytes) (hne : ¬ (w = .word ∧ o = c)) : busTarget p w o = .refused := by
  obtain ⟨h4, hplace⟩ := h
  have hwhole : ¬ (w = .word ∧ o % 4 = 0) := by
    rintro ⟨rfl, ho⟩
    simp only [BusWidth.bytes] at h1
    exact hne ⟨rfl, by omega⟩
  have htouch : (List.range w.bytes).findSome? (fun k => regPlace p (o + k)) ≠ none := by
    intro hnone
    have hk : c - o < w.bytes := by have := w.bytes_pos; omega
    have := List.findSome?_eq_none_iff.1 hnone (c - o) (List.mem_range.2 hk)
    rw [hplace _ (by omega)] at this
    cases this
  obtain ⟨r', hr'⟩ := Option.ne_none_iff_exists'.1 htouch
  simp only [busTarget, hr', if_neg hwhole]

/-- Settles O12: what the target of the access is, for each place of the address map. -/
theorem busRegisterAccesses : Obligations.BusRegisterAccesses := by
  unfold Obligations.BusRegisterAccesses
  intro s x f c hc
  have hplace : PlacedAt s.params c.1 c.2 := placedAt_of_mem_addressMap hc
  refine ⟨?_, ?_, fun w o h0 h1 hne => ⟨?_, ?_⟩⟩
  · simp only [performBus, busTarget_register hplace]
    rfl
  · simp only [performBus, busTarget_register hplace]
    rfl
  · simp only [performBus, busTarget_refused hplace h0 h1 hne]
  · simp only [performBus, busTarget_refused hplace h0 h1 hne]

/-! #### Byte accesses (20_memory R54, R55) -/

theorem performBus_read_bytes {s : State} {w : BusWidth} {o : Nat}
    (h : ∀ k < w.bytes, regPlace s.params (o + k) = none) :
    performBus (.read w o) s = .next (s.observeBytes (s.busReadBytes w.bytes o)) := by
  simp only [performBus, busTarget_bytes h]

theorem performBus_write_bytes {s : State} {w : BusWidth} {o : Nat} (x : Word)
    (h : ∀ k < w.bytes, regPlace s.params (o + k) = none) :
    performBus (.write w o x) s = .next (s.busWriteBytes w.bytes o x) := by
  simp only [performBus, busTarget_bytes h]

/-- Bit `j` of byte `k` of a little-endian value. -/
theorem littleEndian_testBit (bs : List Byte) (k : Nat) {j : Nat} (hj : j < 8) :
    (littleEndian bs).testBit (8 * k + j) = ((bs[k]?).getD 0).getLsbD j := by
  induction bs generalizing k with
  | nil => simp [littleEndian]
  | cons b bs ih =>
    have hb : b.toNat < 2 ^ 8 := b.isLt
    rw [littleEndian, Nat.add_comm b.toNat, Nat.testBit_two_pow_mul_add _ hb]
    cases k with
    | zero => simp [hj, BitVec.getLsbD, -BitVec.getLsbD_eq_getElem]
    | succ k =>
      rw [if_neg (by omega), show 8 * (k + 1) + j - 8 = 8 * k + j by omega, ih k]
      simp

/-- Byte `k` of the bus word of a read. -/
theorem State.busWord_byte (s : State) (w : BusWidth) (o : Nat) {k : Nat} (hk : k < 4) :
    (s.busWord w o).extractLsb' (8 * k) 8 = if k < w.bytes then s.busReadByte (o + k) else 0 := by
  apply BitVec.eq_of_getLsbD_eq
  intro j hj
  rw [BitVec.getLsbD_extractLsb', decide_eq_true hj, Bool.true_and, State.busWord, BitVec.getLsbD_ofNat,
    decide_eq_true (show 8 * k + j < 32 by omega), Bool.true_and, littleEndian_testBit _ k hj, State.busReadBytes]
  split
  · next h => simp [h]
  · next h => simp [Nat.not_lt.1 h]

/-- A bus write of bytes changes the text and nothing else. -/
theorem State.busWriteBytes_frame (s : State) (n o : Nat) (x : Word) :
    s.busWriteBytes n o x = { s with text := (s.busWriteBytes n o x).text } := by
  induction n with
  | zero => rfl
  | succ n ih => rw [s.busWriteBytes_succ, State.busWriteByte_frame, ih]

/-- What the host reads after a bus write of bytes in the text window. -/
theorem State.hostTextRead_busWriteBytes (s : State) (n i : Nat) (x : Word) (j : Nat) :
    (s.busWriteBytes n (textWindow + i) x).hostTextRead j =
      if i ≤ j ∧ j < i + n ∧ j < s.params.textbytes then byteOf x (j - i) else s.hostTextRead j := by
  induction n with
  | zero => rw [if_neg (by omega), s.busWriteBytes_zero]
  | succ n ih =>
    have hparams : (s.busWriteBytes n (textWindow + i) x).params = s.params := by rw [s.busWriteBytes_frame]
    rw [s.busWriteBytes_succ, Nat.add_assoc, State.busWriteByte_text, State.hostTextRead_hostTextWrite, ih, hparams]
    by_cases hj : j = i + n
    · simp [hj]
    · simp only [hj, false_and, if_false]
      exact if_congr (by omega) rfl rfl

/-- Settles O13: no register stands in the text window, and each byte is that text byte's transaction. -/
theorem busTextWindowIsLittleEndian : Obligations.BusTextWindowIsLittleEndian := by
  unfold Obligations.BusTextWindowIsLittleEndian
  intro s w i x
  have hbytes : ∀ k < w.bytes, regPlace s.params (0x1000 + i + k) = none := fun k _ => regPlace_hole _ (by omega)
  have hread (k : Nat) : s.busReadByte (0x1000 + i + k) = s.hostTextRead (i + k) := by
    rw [Nat.add_assoc]
    exact s.busReadByte_text (i + k)
  refine ⟨?_, fun k hk => ?_, _, performBus_write_bytes x hbytes, s.busWriteBytes_frame _ _ _,
    s.hostTextRead_busWriteBytes w.bytes i x⟩
  · simp [performBus_read_bytes hbytes, State.observeBytes, State.busReadBytes, hread]
  · rw [s.busWord_byte w _ hk, hread]

/-- Settles O14: a hole is no register's place and lies below the text window. -/
theorem busHolesReadZero : Obligations.BusHolesReadZero := by
  unfold Obligations.BusHolesReadZero
  intro s w o x hhole
  have hbytes : ∀ k < w.bytes, regPlace s.params (o + k) = none := fun k hk =>
    regPlace_hole _ (by have := hhole k hk; omega)
  have hlow : ∀ k < w.bytes, o + k < textWindow := fun k hk => by
    have := hhole k hk
    rw [textWindow]
    omega
  have hread : s.busReadBytes w.bytes o = List.replicate w.bytes 0 :=
    List.eq_replicate_iff.2 ⟨by simp, fun b hb => by
      obtain ⟨k, hk, rfl⟩ := List.mem_map.1 hb
      exact s.busReadByte_hole _ (hlow k (List.mem_range.1 hk))⟩
  have hwrite (n : Nat) (hn : n ≤ w.bytes) : s.busWriteBytes n o x = s := by
    induction n with
    | zero => rfl
    | succ n ih => rw [s.busWriteBytes_succ, ih (by omega), s.busWriteByte_hole _ _ (hlow n hn)]
  refine ⟨?_, ?_, ?_⟩
  · simp [performBus_read_bytes hbytes, State.observeBytes, hread]
  · rw [State.busWord, hread]
    cases w <;> rfl
  · rw [performBus_write_bytes x hbytes, hwrite _ le_rfl]

end Sys2Proof.Machine

end

/-! ### Storage and mutation (40_storage_indexing, 42_mutation) -/

section

namespace Sys2Proof.Machine

/-! #### Equal vectors -/

/-- Two vectors of one size with the same words are equal. -/
theorem PackedVector.ext_words {v u : PackedVector} (hm : v.maxBit = u.maxBit) (hn : v.nwords = u.nwords)
    (hw : ∀ k < v.nwords, v.word k = u.word k) : v = u := by
  obtain ⟨m, ws⟩ := v
  obtain ⟨m', ws'⟩ := u
  obtain rfl : m = m' := hm
  have : ws = ws' := List.ext_getElem hn fun k h1 h2 => by
    have hk := hw k h1
    rwa [PackedVector.word_of_lt _ k h1, PackedVector.word_of_lt _ k h2] at hk
  rw [this]

/-! #### `NEW`, `I2W`, `GET` -/

/-- The capacity `NEW` takes of its operand is the operand, but 31 for 0. -/
theorem effectiveCapacity_eq {x n : Int} (hn : n = if x = 0 then 31 else x) (h0 : 0 ≤ x) :
    (effectiveCapacity x : Int) = n ∧ 1 ≤ n := by
  unfold effectiveCapacity
  split_ifs at hn ⊢ <;> omega

/-- Settles O32: the two checks of `execNew`, then `zeroVector`. -/
theorem newMakesZeroVector : Obligations.NewMakesZeroVector := by
  unfold Obligations.NewMakesZeroVector
  intro d s n hd hn
  have hrun : exec (.new d) s = _ := commandD_runs d s _ hd
  have hneg : s.operand0 < 0 ↔ n < 0 := by
    change s.arg0.toInt < 0 ↔ _
    split_ifs at hn <;> omega
  rw [hrun]
  by_cases hlow : s.operand0 < 0
  · rw [if_pos hlow]
    exact ⟨fun _ => rfl, fun h0 => absurd (hneg.1 hlow) (by omega)⟩
  · obtain ⟨hcap, h1⟩ := effectiveCapacity_eq (x := s.operand0) hn (Int.not_lt.1 hlow)
    rw [if_neg hlow]
    refine ⟨fun hbad => ?_, fun _ hmax => ?_⟩
    · rw [if_pos (by omega)]
      rfl
    · have hlt : n ≤ 2 ^ 31 := by
        have := BitVec.toInt_lt (x := s.arg0)
        split_ifs at hn <;> omega
      rw [if_neg (by omega), ← hcap]
      refine ⟨_, rfl, ?_, zeroVector_nwords _, zeroVector_words _⟩
      rw [zeroVector_mb (by omega) (by omega)]
      omega

/-- A bit of a word, shifted down and masked, as a number. -/
theorem shiftRight_and_one_toNat (x : Word) (b : Nat) : ((x >>> b) &&& 1).toNat = if x.getLsbD b then 1 else 0 := by
  have h : (x >>> b) &&& 1 = if x.getLsbD b then 1 else 0 := by
    apply BitVec.eq_of_getLsbD_eq
    intro k hk
    have hone : (1 : Word).getLsbD k = decide (k = 0) := by simp [hk]
    rw [BitVec.getLsbD_and, BitVec.getLsbD_ushiftRight, hone]
    by_cases h0 : k = 0
    · subst h0
      cases x.getLsbD b <;> rfl
    · cases x.getLsbD b <;> simp [h0]
  rw [h]
  split <;> rfl

/-- Settles O33: the bounds check, then the word number or the bit. -/
theorem indexToWordAndGet : Obligations.IndexToWordAndGet := by
  unfold Obligations.IndexToWordAndGet
  intro a s v h
  have hi2w : exec (.i2w a) s = _ := commandA_runs a s _ v h.1 h.2
  have hget : exec (.get a) s = _ := commandA_runs a s _ v h.1 h.2
  rw [hi2w, hget]
  refine ⟨fun h0 h1 => ?_, fun hout => ?_⟩
  · rw [atIndex_ok v s.operand0 _ h0 h1, atIndex_ok v s.operand0 _ h0 h1]
    simp only [shiftRight_and_one_toNat, State.finish_answer, State.complete_eq_resultIn]
    have hword : ((s.operand0.toNat / 31 : Nat) : Int) = s.arg0.toInt / 31 := by
      change ((s.arg0.toInt.toNat / 31 : Nat) : Int) = _
      omega
    refine ⟨by rw [hword], ?_⟩
    rw [Nat.cast_ite]
    rfl
  · rw [atIndex_error v s.operand0 _ hout, atIndex_error v s.operand0 _ hout]
    exact ⟨rfl, rfl⟩

/-! #### The mutators by their bits -/

/-- What a mutation makes of one bit. -/
def Mutation.bit : Mutation → Bool → Bool
  | .setBits, _ => true
  | .unsetBits, _ => false
  | .toggleBits, x => !x

theorem applyMask_getLsbD_bit (kind : Mutation) (x m : Word) {b : Nat} (hb : b < 32) :
    (applyMask kind x m).getLsbD b = if m.getLsbD b then kind.bit (x.getLsbD b) else x.getLsbD b := by
  rw [applyMask_getLsbD kind x m b hb]
  cases kind <;> rfl

theorem PackedVector.pointed_getLsbD (v : PackedVector) (kind : Mutation) (idx : Nat) {k b : Nat} (hk : k < v.nwords)
    (hb : b < 32) : ((v.pointed kind (idx / 31) (idx % 31)).word k).getLsbD b =
      if b < 31 ∧ 31 * k + b = idx then kind.bit ((v.word k).getLsbD b) else (v.word k).getLsbD b := by
  rw [v.pointed_word kind _ _ k hk]
  by_cases hw : k = idx / 31
  · rw [if_pos hw, applyMask_getLsbD_bit kind _ _ hb, onehot_getLsbD, ← Bool.decide_and]
    exact if_congr (by rw [decide_eq_true_eq]; omega) rfl rfl
  · rw [if_neg hw, if_neg (by omega)]

theorem PackedVector.ranged_getLsbD (v : PackedVector) (kind : Mutation) {lo hi : Nat} (h : lo ≤ hi) {k b : Nat}
    (hk : k < v.nwords) (hb : b < 32) : ((v.ranged kind lo hi).word k).getLsbD b =
      if b < 31 ∧ lo ≤ 31 * k + b ∧ 31 * k + b ≤ hi then kind.bit ((v.word k).getLsbD b)
      else (v.word k).getLsbD b := by
  rw [v.ranged_word kind lo hi k hk]
  by_cases hw : lo / 31 ≤ k ∧ k ≤ hi / 31
  · rw [if_pos hw, applyMask_getLsbD_bit kind _ _ hb, rangeMask_getLsbD lo hi k b h hw.1 hw.2]
    exact if_congr decide_eq_true_iff rfl rfl
  · rw [if_neg hw, if_neg (by omega)]

/-! #### The point mutators (42_mutation R151 to R154) -/

/-- A point mutator with its index in range stores the pointed vector. -/
theorem exec_pointInstr_runs (kind : Mutation) {a : SlotNo} {s : State} {v : PackedVector} (h : s.Holds a v)
    (h0 : 0 ≤ s.arg0.toInt) (h1 : s.arg0.toInt ≤ v.mb) : exec (kind.pointInstr a) s =
      .next (s.storedIn a (v.pointed kind (s.arg0.toInt.toNat / 31) (s.arg0.toInt.toNat % 31))) := by
  rw [exec_pointInstr, pointCommand, commandA_runs a s _ v h.1 h.2, atIndex_ok v s.operand0 _ h0 h1]
  rfl

theorem exec_pointInstr_mutates (kind : Mutation) {a : SlotNo} {s : State} {v : PackedVector} (h : s.Holds a v)
    (h0 : 0 ≤ s.arg0.toInt) (h1 : s.arg0.toInt ≤ v.mb) : ∃ t, exec (kind.pointInstr a) s = .next t ∧
      s.MutatedTo t a v fun j x => if (j : Int) = s.arg0.toInt then kind.bit x else x := by
  refine ⟨_, exec_pointInstr_runs kind h h0 h1, _, rfl, v.pointed_maxBit kind _ _, v.pointed_nwords kind _ _,
    fun k hk => ⟨fun b hb => ?_, ?_⟩⟩
  · rw [v.pointed_getLsbD kind _ hk (by omega)]
    exact if_congr (by omega) rfl rfl
  · rw [v.pointed_getLsbD kind _ hk (by omega), if_neg (by omega)]

/-- Settles O40: one lemma for the three kinds of mutation. -/
theorem pointMutatorsChangeOneBit : Obligations.PointMutatorsChangeOneBit := by
  unfold Obligations.PointMutatorsChangeOneBit
  exact fun a s v h h0 h1 => ⟨exec_pointInstr_mutates .setBits h h0 h1, exec_pointInstr_mutates .unsetBits h h0 h1,
    exec_pointInstr_mutates .toggleBits h h0 h1⟩

/-! #### The range mutators (42_mutation R156 to R160) -/

/-- The lower and the upper end of a range command (R156). -/
def State.rangeLow (s : State) : Int := min s.arg0.toInt s.arg1.toInt

@[inherit_doc State.rangeLow]
def State.rangeHigh (s : State) : Int := max s.arg0.toInt s.arg1.toInt

theorem State.rangeLow_le_rangeHigh (s : State) : s.rangeLow ≤ s.rangeHigh := min_le_max

theorem State.storedIn_rangeLow (s : State) (f : SlotNo) (v : PackedVector) :
    (s.storedIn f v).rangeLow = s.rangeLow := rfl

theorem State.storedIn_rangeHigh (s : State) (f : SlotNo) (v : PackedVector) :
    (s.storedIn f v).rangeHigh = s.rangeHigh := rfl

/-- What the rule of a range command answers. -/
theorem rangeRule_eq (kind : Mutation) (a : SlotNo) (s : State) (v : PackedVector) :
    (atIndex v (min s.operand0 s.operand1) fun _ _ => atIndex v (max s.operand0 s.operand1) fun _ _ =>
      store s a (v.ranged kind (min s.operand0 s.operand1).toNat (max s.operand0 s.operand1).toNat)) =
    if s.rangeLow < 0 ∨ (v.mb : Int) < s.rangeHigh then .error .indexOutOfRange
    else store s a (v.ranged kind s.rangeLow.toNat s.rangeHigh.toNat) := by
  have hle := s.rangeLow_le_rangeHigh
  change (atIndex v s.rangeLow fun _ _ => atIndex v s.rangeHigh fun _ _ =>
    store s a (v.ranged kind s.rangeLow.toNat s.rangeHigh.toNat)) = _
  rcases atIndex_cases v s.rangeLow fun _ _ => atIndex v s.rangeHigh fun _ _ =>
    store s a (v.ranged kind s.rangeLow.toNat s.rangeHigh.toNat) with ⟨h, he⟩ | ⟨h0, h1, he⟩
  · rw [he, if_pos (by omega)]
  · rw [he]
    by_cases hhi : (v.mb : Int) < s.rangeHigh
    · rw [if_pos (.inr hhi), atIndex_error v _ _ (.inr hhi)]
    · rw [if_neg (by omega), atIndex_ok v _ _ (by omega) (by omega)]

/-- Everything a range command can do, as one state. -/
theorem exec_rangeInstr_eq (kind : Mutation) (a : SlotNo) (s : State) : exec (kind.rangeInstr a) s =
    .next (if s.hasSlot a then s.withA a fun v =>
        if s.rangeLow < 0 ∨ (v.mb : Int) < s.rangeHigh then .error .indexOutOfRange
        else store s a (v.ranged kind s.rangeLow.toNat s.rangeHigh.toNat)
      else s.raise .illegalCommand) := by
  rw [exec_rangeInstr, rangeCommand, commandA]
  simp only [rangeRule_eq]

/-- A range mutator with both ends in range stores the ranged vector. -/
theorem exec_rangeInstr_runs (kind : Mutation) {a : SlotNo} {s : State} {v : PackedVector} (h : s.Holds a v)
    (h0 : 0 ≤ s.rangeLow) (h1 : s.rangeHigh ≤ v.mb) : exec (kind.rangeInstr a) s =
      .next (s.storedIn a (v.ranged kind s.rangeLow.toNat s.rangeHigh.toNat)) := by
  rw [exec_rangeInstr_eq, if_pos h.1, s.withA_some a v _ h.2, if_neg (by omega)]
  rfl

theorem exec_rangeInstr_mutates (kind : Mutation) {a : SlotNo} {s : State} {v : PackedVector} (h : s.Holds a v)
    (h0 : 0 ≤ s.rangeLow) (h1 : s.rangeHigh ≤ v.mb) : ∃ t, exec (kind.rangeInstr a) s = .next t ∧
      s.MutatedTo t a v fun j x => if s.rangeLow ≤ j ∧ (j : Int) ≤ s.rangeHigh then kind.bit x else x := by
  have hlh := s.rangeLow_le_rangeHigh
  have hle : s.rangeLow.toNat ≤ s.rangeHigh.toNat := Int.toNat_le_toNat hlh
  refine ⟨_, exec_rangeInstr_runs kind h h0 h1, _, rfl, v.ranged_maxBit kind _ _, v.ranged_nwords kind _ _,
    fun k hk => ⟨fun b hb => ?_, ?_⟩⟩
  · rw [v.ranged_getLsbD kind hle hk (by omega)]
    exact if_congr (by omega) rfl rfl
  · rw [v.ranged_getLsbD kind hle hk (by omega), if_neg (by omega)]

/-- Settles O41: one lemma for the three kinds of mutation. -/
theorem rangeMutatorsChangeTheRange : Obligations.RangeMutatorsChangeTheRange := by
  unfold Obligations.RangeMutatorsChangeTheRange
  rintro a s v _ _ h rfl rfl h0 h1
  exact ⟨exec_rangeInstr_mutates .setBits h h0 h1, exec_rangeInstr_mutates .unsetBits h h0 h1,
    exec_rangeInstr_mutates .toggleBits h h0 h1⟩

/-! #### Toggling twice (42_mutation R154, R160) -/

theorem PackedVector.pointed_toggle_twice (v : PackedVector) (idx : Nat) :
    (v.pointed .toggleBits (idx / 31) (idx % 31)).pointed .toggleBits (idx / 31) (idx % 31) = v := by
  refine PackedVector.ext_words rfl (by simp) fun k hk => BitVec.eq_of_getLsbD_eq fun b hb => ?_
  have hk' : k < v.nwords := by simpa using hk
  rw [PackedVector.pointed_getLsbD _ _ _ (by simpa using hk') hb, v.pointed_getLsbD _ _ hk' hb]
  split_ifs
  · exact Bool.not_not _
  · rfl

theorem PackedVector.ranged_toggle_twice (v : PackedVector) {lo hi : Nat} (h : lo ≤ hi) :
    (v.ranged .toggleBits lo hi).ranged .toggleBits lo hi = v := by
  refine PackedVector.ext_words rfl (by simp) fun k hk => BitVec.eq_of_getLsbD_eq fun b hb => ?_
  have hk' : k < v.nwords := by simpa using hk
  rw [PackedVector.ranged_getLsbD _ _ h (by simpa using hk') hb, v.ranged_getLsbD _ h hk' hb]
  split_ifs
  · exact Bool.not_not _
  · rfl

/-- A point mutator after `u` was stored in its slot. -/
theorem exec_pointInstr_storedIn (kind : Mutation) {a : SlotNo} {s : State} (u : PackedVector)
    (ha : s.hasSlot a = true) (h0 : 0 ≤ s.arg0.toInt) (h1 : s.arg0.toInt ≤ u.mb) :
    exec (kind.pointInstr a) (s.storedIn a u) =
      .next (s.storedIn a (u.pointed kind (s.arg0.toInt.toNat / 31) (s.arg0.toInt.toNat % 31))) := by
  have h : (s.storedIn a u).Holds a u := ⟨ha, by simp⟩
  rw [exec_pointInstr_runs kind h h0 h1, State.storedIn_storedIn, State.storedIn_arg0]

/-- A range mutator after `u` was stored in its slot. -/
theorem exec_rangeInstr_storedIn (kind : Mutation) {a : SlotNo} {s : State} (u : PackedVector)
    (ha : s.hasSlot a = true) (h0 : 0 ≤ s.rangeLow) (h1 : s.rangeHigh ≤ u.mb) :
    exec (kind.rangeInstr a) (s.storedIn a u) =
      .next (s.storedIn a (u.ranged kind s.rangeLow.toNat s.rangeHigh.toNat)) := by
  have h : (s.storedIn a u).Holds a u := ⟨ha, by simp⟩
  rw [exec_rangeInstr_runs kind h h0 h1, State.storedIn_storedIn, State.storedIn_rangeLow, State.storedIn_rangeHigh]

/-- A command that stores `u` in slot `a`, and from there `v` again, which the slot held, restores the slots. -/
theorem restores_of_storedIn {i : Instr} {a : SlotNo} {s : State} {v u : PackedVector} (h : s.slot a = some v)
    (h1 : exec i s = .next (s.storedIn a u)) (h2 : exec i (s.storedIn a u) = .next (s.storedIn a v)) :
    ∃ t w, exec i s = .next t ∧ t.status.code = none ∧ exec i t = .next w ∧ w.status.code = none ∧
      w.slots = s.slots ∧ w = s.storedIn a v :=
  ⟨_, _, h1, rfl, h2, rfl, State.storedIn_slots_of_slot h, rfl⟩

/-- Settles O42: the second toggle finds the same arguments and a vector of the same size, and toggles the same bits. -/
theorem togglingTwiceRestores : Obligations.TogglingTwiceRestores := by
  unfold Obligations.TogglingTwiceRestores
  intro a s v h
  refine ⟨fun h0 h1 => ?_, fun h0 h1 => ?_⟩
  · refine restores_of_storedIn h.2 (exec_pointInstr_runs .toggleBits h h0 h1) ?_
    refine (exec_pointInstr_storedIn .toggleBits _ h.1 h0 (by exact h1)).trans ?_
    rw [v.pointed_toggle_twice]
  · refine restores_of_storedIn h.2 (exec_rangeInstr_runs .toggleBits h h0 h1) ?_
    refine (exec_rangeInstr_storedIn .toggleBits _ h.1 h0 (by exact h1)).trans ?_
    rw [v.ranged_toggle_twice (Int.toNat_le_toNat s.rangeLow_le_rangeHigh)]

/-! #### The order of the arguments (42_mutation R158) -/

/-- `s` with its arguments exchanged. -/
def State.swapped (s : State) : State := { s with arg0 := s.arg1, arg1 := s.arg0 }

theorem State.rangeLow_swapped (s : State) : s.swapped.rangeLow = s.rangeLow := min_comm _ _

theorem State.rangeHigh_swapped (s : State) : s.swapped.rangeHigh = s.rangeHigh := max_comm _ _

/-- The rule of a range command answers the same with the arguments exchanged, but for the arguments themselves. -/
theorem exec_rangeInstr_swapped {kind : Mutation} {a : SlotNo} {s t u : State}
    (ht : exec (kind.rangeInstr a) s = .next t) (hu : exec (kind.rangeInstr a) s.swapped = .next u) :
    t.slots = u.slots ∧ t.status = u.status ∧ t.res = u.res := by
  rw [exec_rangeInstr_eq, Host.Outcome.next.injEq] at ht hu
  rw [s.rangeLow_swapped, s.rangeHigh_swapped] at hu
  subst ht hu
  change _ = (if s.hasSlot a then _ else _ : State).slots ∧ _ = (if s.hasSlot a then _ else _ : State).status ∧
    _ = (if s.hasSlot a then _ else _ : State).res
  split_ifs
  · cases hv : s.slot a with
    | none =>
      rw [s.withA_none a _ hv, s.swapped.withA_none a _ hv]
      exact ⟨rfl, rfl, rfl⟩
    | some v =>
      rw [s.withA_some a v _ hv, s.swapped.withA_some a v _ hv]
      split_ifs <;> exact ⟨rfl, rfl, rfl⟩
  · exact ⟨rfl, rfl, rfl⟩

/-- A range of one index is the point. -/
theorem PackedVector.ranged_self (v : PackedVector) (kind : Mutation) (idx : Nat) :
    v.ranged kind idx idx = v.pointed kind (idx / 31) (idx % 31) := by
  refine PackedVector.ext_words rfl (by simp) fun k hk => BitVec.eq_of_getLsbD_eq fun b hb => ?_
  have hk' : k < v.nwords := by simpa using hk
  rw [v.ranged_getLsbD kind le_rfl hk' hb, v.pointed_getLsbD kind idx hk' hb]
  exact if_congr (by omega) rfl rfl

theorem exec_rangeInstr_of_eq {kind : Mutation} {a : SlotNo} {s : State} (h : s.arg0 = s.arg1) :
    exec (kind.rangeInstr a) s = exec (kind.pointInstr a) s := by
  have hlo : s.rangeLow = s.operand0 := by rw [State.rangeLow, ← h, min_self]; rfl
  have hhi : s.rangeHigh = s.operand0 := by rw [State.rangeHigh, ← h, max_self]; rfl
  rw [exec_rangeInstr_eq, exec_pointInstr, pointCommand, commandA, hlo, hhi]
  congr 3
  funext v
  rw [v.ranged_self]
  rcases atIndex_cases v s.operand0 fun w b => store s a (v.pointed kind w b) with ⟨hout, he⟩ | ⟨h0, h1, he⟩
  · rw [he, if_pos hout]
  · rw [he, if_neg (by omega)]

/-- Settles O43: a range command reads its arguments through their minimum and maximum only. -/
theorem rangeIsOrderIndependent : Obligations.RangeIsOrderIndependent := by
  unfold Obligations.RangeIsOrderIndependent
  refine fun a s => ⟨?_, exec_rangeInstr_of_eq (kind := .setBits)⟩
  rintro i t u (rfl | rfl | rfl) ht hu
  · exact exec_rangeInstr_swapped (kind := .setBits) ht hu
  · exact exec_rangeInstr_swapped (kind := .unsetBits) ht hu
  · exact exec_rangeInstr_swapped (kind := .toggleBits) ht hu

/-- Settles O44: `CLEAR` stores the cleared vector, `CLONE` the source. -/
theorem clearAndClone : Obligations.ClearAndClone := by
  unfold Obligations.ClearAndClone
  intro d a s v h
  exact ⟨⟨v.cleared, commandA_runs a s _ v h.1 h.2, rfl, v.cleared_nwords, v.cleared_words⟩,
    fun hd => commandDA_runs d a s _ v hd h.1 h.2, State.storedIn_slots_of_slot h.2⟩

end Sys2Proof.Machine

end

/-! ### Set algebra and predicates (43_algebra) -/

section

namespace Sys2Proof.Machine

/-! #### The gates (43_algebra R170 to R180) -/

/-- A gate command on valid sources of one word count stores the combination. -/
theorem exec_gateInstr_runs (g : Gate) {d a b : SlotNo} {s : State} {v u : PackedVector} (hd : s.hasSlot d = true)
    (ha : s.Holds a v) (hb : s.Holds b u) (hn : v.nwords = u.nwords) :
    exec (g.instr d a b) s = .next (s.storedIn d (v.combine g.word u.words)) := by
  rw [exec_gateInstr, algebraCommand, commandDAB_runs d a b s _ v u hd ha.1 hb.1 ha.2 hb.2, sameSize_ok v u _ hn]
  rfl

/-- The combination has the size of the first operand. -/
theorem PackedVector.combine_nwords_of_eq {v u : PackedVector} (f : Word → Word → Word) (hn : v.nwords = u.nwords) :
    (v.combine f u.words).nwords = v.nwords := by
  rw [v.combine_nwords, ← PackedVector.nwords, ← hn, min_self]

theorem exec_gateInstr_builds (g : Gate) {d a b : SlotNo} {s : State} {v u : PackedVector} (hd : s.hasSlot d = true)
    (ha : s.Holds a v) (hb : s.Holds b u) (hn : v.nwords = u.nwords) : ∃ t, exec (g.instr d a b) s = .next t ∧
      s.BuiltIn t d v fun k i => g.bit ((v.word k).getLsbD i) ((u.word k).getLsbD i) :=
  ⟨_, exec_gateInstr_runs g hd ha hb hn, _, rfl, rfl, PackedVector.combine_nwords_of_eq g.word hn,
    fun _ hk i _ => v.combine_getLsbD u g i hk hn⟩

/-- Settles O45: one lemma for the three gates. -/
theorem algebraCombinesBitwise : Obligations.AlgebraCombinesBitwise := by
  unfold Obligations.AlgebraCombinesBitwise
  exact fun d a b s v u hd ha hb hn => ⟨exec_gateInstr_builds .and hd ha hb hn, exec_gateInstr_builds .or hd ha hb hn,
    exec_gateInstr_builds .xor hd ha hb hn⟩

theorem exec_gateIndexInstr_builds (g : Gate) {d a : SlotNo} {s : State} {v : PackedVector} (hd : s.hasSlot d = true)
    (ha : s.Holds a v) (h0 : 0 ≤ s.arg0.toInt) (h1 : s.arg0.toInt ≤ v.mb) :
    ∃ t, exec (g.indexInstr d a) s = .next t ∧ s.BuiltIn t d v fun k i =>
      g.bit ((v.word k).getLsbD i) (decide (i < 31 ∧ ((31 * k + i : Nat) : Int) = s.arg0.toInt)) := by
  refine ⟨s.storedIn d (v.combine g.word (v.onehotWords (s.arg0.toInt.toNat / 31) (s.arg0.toInt.toNat % 31))), ?_,
    _, rfl, rfl, by simp, fun k hk i hi => ?_⟩
  · rw [exec_gateIndexInstr, onehotCommand, commandDA_runs d a s _ v hd ha.1 ha.2, atIndex_ok v s.operand0 _ h0 h1]
    rfl
  · rw [v.combine_onehot_getLsbD g _ hk hi]
    congr 1
    exact decide_eq_decide.2 (by omega)

/-- Settles O46: one lemma for the three gates. -/
theorem indexFormsCombineWithOneHot : Obligations.IndexFormsCombineWithOneHot := by
  unfold Obligations.IndexFormsCombineWithOneHot
  rintro d a s v _ hd ha h0 h1 rfl
  exact ⟨exec_gateIndexInstr_builds .and hd ha h0 h1, exec_gateIndexInstr_builds .or hd ha h0 h1,
    exec_gateIndexInstr_builds .xor hd ha h0 h1⟩

/-! #### The laws (43_algebra R181) -/

theorem Gate.word_comm (g : Gate) (x y : Word) : g.word x y = g.word y x := by
  cases g
  · exact BitVec.and_comm x y
  · exact BitVec.or_comm x y
  · exact BitVec.xor_comm x y

theorem Gate.word_assoc (g : Gate) (x y z : Word) : g.word (g.word x y) z = g.word x (g.word y z) := by
  cases g
  · exact BitVec.and_assoc x y z
  · exact BitVec.or_assoc x y z
  · exact BitVec.xor_assoc x y z

/-- A combination of words with words of an associative operation may be bracketed either way. -/
theorem zipWith_assoc (g : Gate) (xs ys zs : List Word) :
    List.zipWith g.word (List.zipWith g.word xs ys) zs = List.zipWith g.word xs (List.zipWith g.word ys zs) := by
  induction xs generalizing ys zs with
  | nil => simp
  | cons x xs ih =>
    cases ys with
    | nil => simp
    | cons y ys =>
      cases zs with
      | nil => simp
      | cons z zs => simp [g.word_assoc, ih]

/-- A slot holds what was stored in it, and each other slot what it held. -/
theorem State.Holds.storedIn_self {s : State} {d : SlotNo} (hd : s.hasSlot d = true) (v : PackedVector) :
    (s.storedIn d v).Holds d v := ⟨hd, s.storedIn_slot_self d v⟩

theorem State.Holds.storedIn_of_ne {s : State} {a d : SlotNo} {v : PackedVector} (h : s.Holds a v) (hne : d ≠ a)
    (u : PackedVector) : (s.storedIn d u).Holds a v := ⟨h.1, (s.storedIn_slot_of_ne u hne).trans h.2⟩

/-- The two sides of each law, computed. -/
theorem gate_laws (g : Gate) {d e a b c : SlotNo} {s : State} {v u w : PackedVector} (hd : s.hasSlot d = true)
    (he : s.hasSlot e = true) (ha : s.Holds a v) (hb : s.Holds b u) (hc : s.Holds c w) (hvu : v.nwords = u.nwords)
    (huw : u.nwords = w.nwords) (hdc : d ≠ c) (hea : e ≠ a) :
    ∃ t1 t2 t3 t4 x1 x2 x3 x4, exec (g.instr d a b) s = .next t1 ∧ exec (g.instr e b a) s = .next t2 ∧
      t1.slot d = some x1 ∧ t2.slot e = some x2 ∧ x1.words = x2.words ∧
      exec (g.instr d d c) t1 = .next t3 ∧ t3.slot d = some x3 ∧
      (∃ t, exec (g.instr e b c) s = .next t ∧ exec (g.instr e a e) t = .next t4) ∧ t4.slot e = some x4 ∧
      x3.words = x4.words := by
  have hab : (v.combine g.word u.words).nwords = w.nwords :=
    (PackedVector.combine_nwords_of_eq _ hvu).trans (hvu.trans huw)
  have hbc : v.nwords = (u.combine g.word w.words).nwords :=
    hvu.trans (PackedVector.combine_nwords_of_eq _ huw).symm
  refine ⟨_, _, _, _, _, _, _, _, exec_gateInstr_runs g hd ha hb hvu, exec_gateInstr_runs g he hb ha hvu.symm,
    State.storedIn_slot_self _ _ _, State.storedIn_slot_self _ _ _, ?_,
    exec_gateInstr_runs g hd (State.Holds.storedIn_self hd _) (hc.storedIn_of_ne hdc _) hab,
    State.storedIn_slot_self _ _ _,
    ⟨_, exec_gateInstr_runs g he hb hc huw,
      exec_gateInstr_runs g he (ha.storedIn_of_ne hea _) (State.Holds.storedIn_self he _) hbc⟩,
    State.storedIn_slot_self _ _ _, ?_⟩
  · exact List.zipWith_comm_of_comm g.word_comm
  · exact zipWith_assoc g v.words u.words w.words

/-- A vector combined with words that act as neutral on its own is itself. -/
theorem PackedVector.combine_eq_self {v u : PackedVector} {f : Word → Word → Word} (hn : v.nwords = u.nwords)
    (h : ∀ k < v.nwords, f (v.word k) (u.word k) = v.word k) : v.combine f u.words = v := by
  have hlen := PackedVector.combine_nwords_of_eq f hn
  refine PackedVector.ext_words rfl hlen fun k hk => ?_
  rw [hlen] at hk
  have hku : k < u.words.length := hk.trans_eq hn
  exact (v.combine_word f u.words k hk hku).trans (h k hk)

/-- Settles O47: the laws of each gate, and the three special operands. -/
theorem algebraLaws : Obligations.AlgebraLaws := by
  unfold Obligations.AlgebraLaws
  intro d e a b c s v u w hd he ha hb hc hvu huw hda hdb hdc hea heb hec
  refine ⟨?_, ?_, ?_, fun hz => ?_⟩
  · intro op hop
    rcases (by simpa using hop : op = _ ∨ op = _ ∨ op = _) with rfl | rfl | rfl
    · exact gate_laws .and hd he ha hb hc hvu huw hdc hea
    · exact gate_laws .or hd he ha hb hc hvu huw hdc hea
    · exact gate_laws .xor hd he ha hb hc hvu huw hdc hea
  · refine ⟨_, exec_gateInstr_runs .and hd ha ha rfl, ?_⟩
    rw [State.storedIn_slot_self, PackedVector.combine_eq_self (f := Gate.and.word) rfl fun k _ => BitVec.and_self]
  · refine ⟨_, _, exec_gateInstr_runs .xor hd ha ha rfl, State.storedIn_slot_self _ _ _,
      PackedVector.combine_nwords_of_eq _ rfl, fun y hy => ?_⟩
    rw [PackedVector.combine, List.zipWith_self] at hy
    obtain ⟨x, -, rfl⟩ := List.mem_map.1 hy
    exact BitVec.xor_self
  · refine ⟨_, exec_gateInstr_runs .or hd ha hb hvu, ?_⟩
    have hzero := (u.forall_mem_words (· = 0)).1 hz
    rw [State.storedIn_slot_self, PackedVector.combine_eq_self (f := Gate.or.word) hvu fun k hk => ?_]
    rw [hzero k (hvu ▸ hk)]
    exact BitVec.or_zero

/-! #### The predicates (43_algebra R185 to R187) -/

theorem truth_cases (c : Bool) : (truth c = 0 ∨ truth c = 1) ∧ (truth c = 1 ↔ c = true) := by
  cases c <;> decide

/-- Every word of a vector agrees with the word at its place in one of equal word count exactly when the words do. -/
theorem PackedVector.words_eq_iff {v u : PackedVector} (hn : v.nwords = u.nwords) :
    v.words = u.words ↔ ∀ k < v.nwords, v.word k = u.word k := by
  constructor
  · intro h k _
    rw [PackedVector.word, h, PackedVector.word]
  · intro h
    refine List.ext_getElem hn fun k h1 h2 => ?_
    rw [← v.word_of_lt k h1, ← u.word_of_lt k h2, h k h1]

/-- A word's bits are bits of another exactly when masking with that one changes nothing. -/
theorem and_eq_left_iff (x y : Word) : x &&& y = x ↔ ∀ i < 32, x.getLsbD i = true → y.getLsbD i = true := by
  constructor
  · intro h i _ hx
    rw [← h, BitVec.getLsbD_and, Bool.and_eq_true] at hx
    exact hx.2
  · intro h
    apply BitVec.eq_of_getLsbD_eq
    intro i hi
    rw [BitVec.getLsbD_and, Bool.and_eq_left_iff_imp]
    exact h i hi

/-- What the test of `ISSUBSET` says of two vectors of one word count. -/
theorem PackedVector.within_iff {v u : PackedVector} (hn : v.nwords = u.nwords) : v.within u = true ↔
    ∀ k < v.nwords, ∀ i < 32, (v.word k).getLsbD i = true → (u.word k).getLsbD i = true := by
  have hlen : v.words.length = u.words.length := hn
  simp only [PackedVector.within, List.all_eq_true, List.forall_mem_iff_forall_getElem, List.length_zipWith,
    List.getElem_zipWith, id, beq_iff_eq, and_eq_left_iff, ← hlen, min_self]
  refine forall₂_congr fun k hk => ?_
  rw [v.word_of_lt k hk, u.word_of_lt k (hlen ▸ hk)]

theorem exec_isempty {a : SlotNo} {s : State} {v : PackedVector} (h : s.Holds a v) :
    exec (.isempty a) s = .next (s.resultIn (truth (v.words.all (· == 0)))) :=
  commandA_runs a s _ v h.1 h.2

theorem exec_isequal {a b : SlotNo} {s : State} {v u : PackedVector} (ha : s.Holds a v) (hb : s.Holds b u)
    (hn : v.nwords = u.nwords) : exec (.isequal a b) s = .next (s.resultIn (truth (v.words == u.words))) := by
  refine (commandAB_runs a b s _ v u ha.1 hb.1 ha.2 hb.2).trans ?_
  rw [sameSize_ok v u _ hn]
  rfl

theorem exec_issubset {a b : SlotNo} {s : State} {v u : PackedVector} (ha : s.Holds a v) (hb : s.Holds b u)
    (hn : v.nwords = u.nwords) : exec (.issubset a b) s = .next (s.resultIn (truth (v.within u))) := by
  refine (commandAB_runs a b s _ v u ha.1 hb.1 ha.2 hb.2).trans ?_
  rw [sameSize_ok v u _ hn]
  rfl

/-- Settles O51: each predicate is the truth of its word test, and each word test says what it names. -/
theorem predicatesDecide : Obligations.PredicatesDecide := by
  unfold Obligations.PredicatesDecide
  intro a b s v u ha hb hn
  have decides {c : Bool} {P : Prop} (hP : c = true ↔ P) : (truth c = 0 ∨ truth c = 1) ∧ (truth c = 1 ↔ P) :=
    ⟨(truth_cases c).1, (truth_cases c).2.trans hP⟩
  refine ⟨⟨_, exec_isempty ha, decides ?_⟩, ⟨_, exec_isequal ha hb hn, decides ?_⟩,
    ⟨_, exec_issubset ha hb hn, decides (PackedVector.within_iff hn)⟩⟩
  · simp
  · rw [beq_iff_eq, PackedVector.words_eq_iff hn]

/-- A raised state is no completed one. -/
theorem State.raise_ne_resultIn (s : State) (e : Exc) (r : Int) : s.raise e ≠ s.resultIn r := fun h => by
  cases congrArg (fun t => t.status.code) h

theorem State.resultIn_truth_eq_one {s : State} {c : Bool} (h : s.resultIn (truth c) = s.resultIn 1) : c = true := by
  cases c with
  | true => rfl
  | false => exact absurd (congrArg State.res h) (by change ¬ (BitVec.ofInt 32 0 = BitVec.ofInt 32 1); decide)

/-- `ISSUBSET` answers 1 only for valid sources of one word count whose word test holds. -/
theorem issubset_eq_one {a b : SlotNo} {s : State} (h : exec (.issubset a b) s = .next (s.resultIn 1)) :
    ∃ v u, s.Holds a v ∧ s.Holds b u ∧ v.nwords = u.nwords ∧ v.within u = true := by
  have raises {o : Host.Outcome State Fault Refusal} {e : Exc} (ho : o = .next (s.raise e)) :
      o ≠ .next (s.resultIn 1) := by
    rw [ho, Ne, Host.Outcome.next.injEq]
    exact s.raise_ne_resultIn e 1
  rcases commandAB_cases a b s fun v u => sameSize v u (answer s (truth (v.within u))) with
    ⟨-, ho⟩ | ⟨-, -, -, ho⟩ | ⟨ha, hb, v, u, hv, hu, ho⟩
  · exact absurd h (raises ho)
  · exact absurd h (raises ho)
  · rcases sameSize_cases v u (answer s (truth (v.within u))) with ⟨-, he⟩ | ⟨hn, he⟩
    · rw [he] at ho
      exact absurd h (raises ho)
    · rw [he] at ho
      exact ⟨v, u, ⟨ha, hv⟩, ⟨hb, hu⟩, hn, State.resultIn_truth_eq_one (Host.Outcome.next.inj (ho.symm.trans h))⟩

theorem State.Holds.unique {s : State} {a : SlotNo} {v u : PackedVector} (hv : s.Holds a v) (hu : s.Holds a u) :
    v = u := Option.some.inj (hv.2.symm.trans hu.2)

/-- `within` is antisymmetric up to equal words. -/
theorem PackedVector.words_eq_of_within {v u : PackedVector} (hn : v.nwords = u.nwords) (hvu : v.within u = true)
    (huv : u.within v = true) : v.words = u.words := by
  rw [PackedVector.within_iff hn] at hvu
  rw [PackedVector.within_iff hn.symm, ← hn] at huv
  refine (PackedVector.words_eq_iff hn).2 fun k hk => BitVec.eq_of_getLsbD_eq fun i hi => ?_
  exact Bool.eq_iff_iff.2 ⟨hvu k hk i hi, huv k hk i hi⟩

theorem PackedVector.within_trans {v u w : PackedVector} (hvu : v.nwords = u.nwords) (huw : u.nwords = w.nwords)
    (h1 : v.within u = true) (h2 : u.within w = true) : v.within w = true := by
  rw [PackedVector.within_iff hvu] at h1
  rw [PackedVector.within_iff huw, ← hvu] at h2
  exact (PackedVector.within_iff (hvu.trans huw)).2 fun k hk i hi h => h2 k hk i hi (h1 k hk i hi h)

/-- Settles O52: the word test of `ISSUBSET` is a partial order on vectors of one word count. -/
theorem subsetIsAPartialOrder : Obligations.SubsetIsAPartialOrder := by
  unfold Obligations.SubsetIsAPartialOrder
  intro a b c s v ha
  refine ⟨?_, fun hab hba => ?_, fun hab hbc => ?_⟩
  · rw [exec_issubset ha ha rfl, (PackedVector.within_iff rfl).2 fun _ _ _ _ h => h]
    rfl
  · obtain ⟨x, u, hx, hu, hn, hxu⟩ := issubset_eq_one hab
    obtain ⟨u', x', hu', hx', -, hux⟩ := issubset_eq_one hba
    obtain rfl := hu.unique hu'
    obtain rfl := hx.unique hx'
    rw [exec_isequal hx hu hn, PackedVector.words_eq_of_within hn hxu hux, beq_self_eq_true]
    rfl
  · obtain ⟨x, u, hx, hu, hxun, hxu⟩ := issubset_eq_one hab
    obtain ⟨u', w, hu', hw, huwn, huw⟩ := issubset_eq_one hbc
    obtain rfl := hu.unique hu'
    rw [exec_issubset hx hw (hxun.trans huwn), PackedVector.within_trans hxun huwn hxu huw]
    rfl

end Sys2Proof.Machine

end

/-! ### The mechanisms of the word unit (41_bitscan R120 to R123, 43_algebra R183) -/

section

namespace Sys2Proof.Machine

/-! #### The De Bruijn look-up -/

/-- The table finds the position of every one-bit word. -/
theorem deBruijnPosition_onehot : ∀ i < 32, deBruijnPosition (onehot i) = i := by
  decide

/-- A word masked with its negation is its lowest set bit alone: negating keeps the bits up to that one and inverts the
others. -/
theorem and_neg_eq_onehot {x : Word} (h : x ≠ 0) : x &&& -x = onehot (lsb x) := by
  obtain ⟨h32, hset, hbelow⟩ := lsb_spec x h
  apply BitVec.eq_of_getLsbD_eq
  intro i hi
  rw [BitVec.getLsbD_and, BitVec.getLsbD_neg, onehot_getLsbD, decide_eq_true hi, Bool.true_and, Bool.true_and]
  rcases Nat.lt_trichotomy i (lsb x) with hlt | rfl | hgt
  · rw [hbelow i hlt]
    simp [hlt.ne']
  · have hnone : ¬ ∃ j < lsb x, x.getLsbD j = true := fun ⟨j, hj, hb⟩ => by simp [hbelow j hj] at hb
    rw [decide_eq_false hnone, hset]
    simp
  · rw [decide_eq_true ⟨lsb x, hgt, hset⟩]
    simp [hgt.ne]

/-- One fold doubles how far down a set bit has spread. -/
theorem fold_spreads {x w : Word} {n : Nat} (h : ∀ i, w.getLsbD i = true ↔ ∃ j < n, x.getLsbD (i + j) = true)
    (i : Nat) : (w ||| (w >>> n)).getLsbD i = true ↔ ∃ j < 2 * n, x.getLsbD (i + j) = true := by
  rw [BitVec.getLsbD_or, BitVec.getLsbD_ushiftRight, Bool.or_eq_true, h, h]
  constructor
  · rintro (⟨j, hj, hb⟩ | ⟨j, hj, hb⟩)
    · exact ⟨j, by omega, hb⟩
    · exact ⟨n + j, by omega, by rwa [show i + (n + j) = n + i + j by omega]⟩
  · rintro ⟨j, hj, hb⟩
    by_cases hn : j < n
    · exact .inl ⟨j, hn, hb⟩
    · exact .inr ⟨j - n, by omega, by rwa [show n + i + (j - n) = i + j by omega]⟩

/-- The OR-fold sets every bit from the top set bit down. -/
theorem orFold_getLsbD (x : Word) (i : Nat) : (orFold x).getLsbD i = true ↔ ∃ j < 32, x.getLsbD (i + j) = true := by
  have h1 (i : Nat) : x.getLsbD i = true ↔ ∃ j < 1, x.getLsbD (i + j) = true := by simp
  exact fold_spreads (fold_spreads (fold_spreads (fold_spreads (fold_spreads h1)))) i

theorem orFold_eq_mask {x : Word} (h : x ≠ 0) : orFold x = mask (msb x + 1) 0 := by
  obtain ⟨h32, hset, habove⟩ := msb_spec x h
  apply BitVec.eq_of_getLsbD_eq
  intro i hi
  rw [mask_getLsbD, Bool.eq_iff_iff, orFold_getLsbD]
  simp only [hi, decide_true, Bool.true_and, Nat.zero_le, Nat.zero_add, decide_eq_true_eq]
  constructor
  · rintro ⟨j, -, hj⟩
    by_contra hgt
    simp [habove (i + j) (by omega)] at hj
  · intro hle
    exact ⟨msb x - i, by omega, by rwa [Nat.add_sub_cancel' (by omega)]⟩

/-- The fold shifted down and incremented is the top set bit alone. -/
theorem orFold_succ_eq_onehot {x : Word} (h : x ≠ 0) : (orFold x >>> 1) + 1 = onehot (msb x) := by
  have h32 : msb x < 32 := (msb_spec x h).1
  have table : ∀ m < 32, ((mask (m + 1) 0) >>> 1) + 1 = onehot m := by decide
  rw [orFold_eq_mask h, table _ h32]

/-- Settles O34: each mechanism looks up the word with only the bit of the definition. -/
theorem deBruijnLookupFindsTheBit : Obligations.DeBruijnLookupFindsTheBit := by
  unfold Obligations.DeBruijnLookupFindsTheBit
  intro x h
  constructor
  · rw [lsbDeBruijn, and_neg_eq_onehot h, deBruijnPosition_onehot _ (lsb_spec x h).1]
  · rw [msbDeBruijn, orFold_succ_eq_onehot h, deBruijnPosition_onehot _ (msb_spec x h).1]

/-! #### The parallel sum: numbers as lanes of `k` bits -/

/-- The lowest `j` lanes of `k` bits of a number, the lowest first. -/
def lanes (k : Nat) : Nat → Nat → List Nat
  | 0, _ => []
  | j + 1, n => n % 2 ^ k :: lanes k j (n / 2 ^ k)

/-- The sums of neighbouring lanes. -/
def pairUp : List Nat → List Nat
  | a :: b :: l => (a + b) :: pairUp l
  | l => l

/-- The mask of every second of `2 * j` lanes of `k` bits, from the lowest. -/
def evenMask (k : Nat) : Nat → Nat
  | 0 => 0
  | j + 1 => 2 ^ (2 * k) * evenMask k j + (2 ^ k - 1)

/-- One step of the parallel sum: the even lanes plus the odd lanes, moved down. -/
def pairSums (k j n : Nat) : Nat := (n &&& evenMask k j) + (n / 2 ^ k &&& evenMask k j)

/-- Masking, lane pair by lane pair. -/
theorem and_evenMask_succ (k j n : Nat) :
    n &&& evenMask k (j + 1) = 2 ^ (2 * k) * (n / 2 ^ (2 * k) &&& evenMask k j) + n % 2 ^ k := by
  have hk : 2 ^ k ≤ 2 ^ (2 * k) := Nat.pow_le_pow_right (by decide) (by omega)
  have hmod : n % 2 ^ k < 2 ^ (2 * k) := (Nat.mod_lt n (Nat.two_pow_pos k)).trans_le hk
  have hones : 2 ^ k - 1 < 2 ^ (2 * k) := by have := Nat.two_pow_pos k; omega
  apply Nat.eq_of_testBit_eq
  intro i
  rw [Nat.testBit_and, evenMask, Nat.testBit_two_pow_mul_add _ hones, Nat.testBit_two_pow_mul_add _ hmod]
  by_cases hi : i < 2 * k
  · rw [if_pos hi, if_pos hi, Nat.testBit_two_pow_sub_one, Nat.testBit_mod_two_pow, Bool.and_comm]
  · rw [if_neg hi, if_neg hi, Nat.testBit_and, Nat.testBit_div_two_pow, Nat.sub_add_cancel (Nat.not_lt.1 hi)]

theorem pairSums_succ (k j n : Nat) : pairSums k (j + 1) n =
    2 ^ (2 * k) * pairSums k j (n / 2 ^ (2 * k)) + (n % 2 ^ k + n / 2 ^ k % 2 ^ k) := by
  simp only [pairSums, and_evenMask_succ, Nat.div_div_eq_div_mul, Nat.mul_comm (2 ^ k) (2 ^ (2 * k))]
  ring

/-- A step of the parallel sum pairs the lanes up. -/
theorem lanes_pairSums {k : Nat} (hk : 1 ≤ k) (j n : Nat) :
    lanes (2 * k) j (pairSums k j n) = pairUp (lanes k (2 * j) n) := by
  induction j generalizing n with
  | zero => rfl
  | succ j ih =>
    have hpow : 2 ^ (2 * k) = 2 ^ k * 2 ^ k := by rw [two_mul, pow_add]
    have htwo : 2 ≤ 2 ^ k := Nat.le_self_pow (by omega) 2
    have hlt : n % 2 ^ k + n / 2 ^ k % 2 ^ k < 2 ^ (2 * k) := by
      have h1 := Nat.mod_lt n (Nat.two_pow_pos k)
      have h2 := Nat.mod_lt (n / 2 ^ k) (Nat.two_pow_pos k)
      rw [hpow]
      nlinarith
    rw [show 2 * (j + 1) = 2 * j + 1 + 1 by omega, lanes, lanes, lanes, pairUp, pairSums_succ, Nat.mul_add_mod,
      Nat.mod_eq_of_lt hlt, Nat.mul_add_div (Nat.two_pow_pos _), Nat.div_eq_of_lt hlt, Nat.add_zero, ih,
      Nat.div_div_eq_div_mul, ← hpow]

theorem pairUp_sum (l : List Nat) : (pairUp l).sum = l.sum := by
  induction l using pairUp.induct with
  | case1 a b l ih => simp [pairUp, ih, Nat.add_assoc]
  | case2 l h => rw [pairUp]; exact h

theorem pairUp_le {l : List Nat} {m : Nat} (h : ∀ x ∈ l, x ≤ m) : ∀ x ∈ pairUp l, x ≤ 2 * m := by
  induction l using pairUp.induct with
  | case1 a b l ih =>
    obtain ⟨ha, hb, hl⟩ : a ≤ m ∧ b ≤ m ∧ ∀ x ∈ l, x ≤ m := by simpa using h
    rw [pairUp, List.forall_mem_cons]
    exact ⟨by omega, ih hl⟩
  | case2 l hl =>
    rw [pairUp]
    · exact fun x hx => (h x hx).trans (by omega)
    · exact hl

/-- The bits of a number, counted. -/
theorem lanes_one_sum (j n : Nat) : (lanes 1 j n).sum = (List.range j).countP n.testBit := by
  induction j generalizing n with
  | zero => rfl
  | succ j ih =>
    rw [lanes, List.sum_cons, ih, List.range_succ_eq_map, List.countP_cons, List.countP_map, Nat.add_comm]
    congr 1
    · refine List.countP_congr fun i _ => ?_
      rw [Function.comp_apply, Nat.testBit_succ, pow_one]
    · rw [Nat.testBit_zero, pow_one]
      rcases Nat.mod_two_eq_zero_or_one n with h | h <;> simp [h]

theorem lanes_one_le (j n : Nat) : ∀ x ∈ lanes 1 j n, x ≤ 1 := by
  induction j generalizing n with
  | zero => simp [lanes]
  | succ j ih =>
    rw [lanes, List.forall_mem_cons]
    exact ⟨by omega, ih _⟩

/-- The first subtraction leaves the pair sums: a number is its even bits plus twice its odd bits, moved down. -/
theorem mod_eq_even_add_odd (j n : Nat) :
    n % 2 ^ (2 * j) = (n &&& evenMask 1 j) + 2 * (n / 2 &&& evenMask 1 j) := by
  induction j generalizing n with
  | zero => simp [evenMask, Nat.mod_one]
  | succ j ih =>
    have hcomm : n / 2 / 4 = n / 4 / 2 := by omega
    rw [and_evenMask_succ 1 j n, and_evenMask_succ 1 j (n / 2), Nat.mul_add 2 j 1, pow_add, Nat.mul_comm (2 ^ (2 * j)),
      Nat.mod_mul, show 2 ^ (2 * 1) = 4 from rfl, ih (n / 4), hcomm]
    omega

theorem pairSums_le (k j n : Nat) : pairSums k j n ≤ 2 * evenMask k j := by
  have h1 : n &&& evenMask k j ≤ evenMask k j := Nat.and_le_right
  have h2 : n / 2 ^ k &&& evenMask k j ≤ evenMask k j := Nat.and_le_right
  rw [pairSums]
  omega

theorem toNat_subtract_odd (x : Word) : (x - ((x >>> 1) &&& 0x55555555)).toNat = pairSums 1 16 x.toNat := by
  have h := mod_eq_even_add_odd 16 x.toNat
  have hlt := x.isLt
  rw [Nat.mod_eq_of_lt hlt] at h
  have hodd : ((x >>> 1) &&& 0x55555555).toNat = (x.toNat / 2 &&& evenMask 1 16) := by
    rw [BitVec.toNat_and, BitVec.toNat_ushiftRight, Nat.shiftRight_eq_div_pow]
    rfl
  rw [BitVec.toNat_sub, hodd, pairSums, pow_one]
  omega

theorem toNat_pairSums_two (x : Word) :
    ((x &&& 0x33333333) + ((x >>> 2) &&& 0x33333333)).toNat = pairSums 2 8 x.toNat := by
  have hle := pairSums_le 2 8 x.toNat
  have hmask : 2 * evenMask 2 8 < 2 ^ 32 := by decide
  rw [BitVec.toNat_add, BitVec.toNat_and, BitVec.toNat_and, BitVec.toNat_ushiftRight, Nat.shiftRight_eq_div_pow]
  exact Nat.mod_eq_of_lt (hle.trans_lt hmask)

/-- The last mask of the parallel sum picks the low half of each byte. -/
theorem and_lowHalves (n : Nat) : n &&& 0x0F0F0F0F =
    n % 16 + 2 ^ 8 * (n / 2 ^ 8 % 16) + 2 ^ 16 * (n / 2 ^ 16 % 16) + 2 ^ 24 * (n / 2 ^ 24 % 16) := by
  rw [show 0x0F0F0F0F = evenMask 4 4 from rfl, and_evenMask_succ, and_evenMask_succ, and_evenMask_succ,
    and_evenMask_succ, evenMask, Nat.and_zero]
  simp only [Nat.reduceMul, Nat.reducePow]
  omega

/-- The value of a list of half-bytes, the lowest first. -/
def halfBytes : List Nat → Nat
  | [] => 0
  | c :: l => c + 16 * halfBytes l

/-- Half-bytes of at most 8 are read back by the last mask. -/
theorem halfBytes_and_lowHalves {a0 a1 a2 a3 a4 a5 a6 a7 : Nat}
    (h : ∀ c ∈ [a0, a1, a2, a3, a4, a5, a6, a7], c ≤ 8) :
    halfBytes [a0, a1, a2, a3, a4, a5, a6, a7] &&& 0x0F0F0F0F = a0 + 2 ^ 8 * a2 + 2 ^ 16 * a4 + 2 ^ 24 * a6 := by
  simp only [List.forall_mem_cons] at h
  obtain ⟨h0, h1, h2, h3, h4, h5, h6, h7, -⟩ := h
  have low {a : Nat} (ha : a ≤ 8) (l : List Nat) : halfBytes (a :: l) % 16 = a := by
    rw [halfBytes]
    omega
  have high {a b : Nat} (ha : a ≤ 8) (hb : b ≤ 8) (l : List Nat) :
      halfBytes (a :: b :: l) / 2 ^ 8 = halfBytes l := by
    rw [halfBytes, halfBytes]
    omega
  rw [and_lowHalves, show 2 ^ 24 = 2 ^ 8 * 2 ^ 8 * 2 ^ 8 from rfl, show 2 ^ 16 = 2 ^ 8 * 2 ^ 8 from rfl,
    ← Nat.div_div_eq_div_mul, ← Nat.div_div_eq_div_mul, ← Nat.div_div_eq_div_mul, high h0 h1, high h2 h3, high h4 h5,
    low h0, low h2, low h4, low h6]

/-- Half-bytes of at most 4 add to their neighbours without a carry. -/
theorem neighbour_sums {n c0 c1 c2 c3 c4 c5 c6 c7 : Nat} (hn : n = halfBytes [c0, c1, c2, c3, c4, c5, c6, c7])
    (h : ∀ c ∈ [c0, c1, c2, c3, c4, c5, c6, c7], c ≤ 4) :
    (n + n / 16) % 2 ^ 32 &&& 0x0F0F0F0F =
      (c0 + c1) + 2 ^ 8 * (c2 + c3) + 2 ^ 16 * (c4 + c5) + 2 ^ 24 * (c6 + c7) := by
  simp only [List.forall_mem_cons] at h
  obtain ⟨h0, h1, h2, h3, h4, h5, h6, h7, -⟩ := h
  have hsum : (n + n / 16) % 2 ^ 32 =
      halfBytes [c0 + c1, c1 + c2, c2 + c3, c3 + c4, c4 + c5, c5 + c6, c6 + c7, c7] := by
    have hdiv : n / 16 = halfBytes [c1, c2, c3, c4, c5, c6, c7] := by
      rw [hn, halfBytes]
      omega
    rw [hdiv, hn]
    simp only [halfBytes]
    omega
  rw [hsum, halfBytes_and_lowHalves]
  simp only [List.forall_mem_cons]
  exact ⟨by omega, by omega, by omega, by omega, by omega, by omega, by omega, by omega, by simp⟩

/-- Multiplying by `0x01010101` adds all four bytes into the highest. -/
theorem byte_sum {p0 p1 p2 p3 : Nat} (h : p0 ≤ 8 ∧ p1 ≤ 8 ∧ p2 ≤ 8 ∧ p3 ≤ 8) :
    (p0 + 2 ^ 8 * p1 + 2 ^ 16 * p2 + 2 ^ 24 * p3) * 0x01010101 % 2 ^ 32 / 2 ^ 24 = p0 + p1 + p2 + p3 := by
  have hprod : (p0 + 2 ^ 8 * p1 + 2 ^ 16 * p2 + 2 ^ 24 * p3) * 0x01010101 =
      2 ^ 32 * (p1 + p2 + p3 + 2 ^ 8 * (p2 + p3) + 2 ^ 16 * p3) +
        (2 ^ 24 * (p0 + p1 + p2 + p3) + (p0 + 2 ^ 8 * (p0 + p1) + 2 ^ 16 * (p0 + p1 + p2))) := by omega
  rw [hprod, Nat.mul_add_mod, Nat.mod_eq_of_lt (by omega), Nat.mul_add_div (by decide), Nat.div_eq_of_lt (by omega),
    Nat.add_zero]

/-- With every half-byte at most 4 the last steps add the eight of them: neighbours, then the four bytes. -/
theorem toNat_sum_of_halfBytes (x : Word) (h : ∀ c ∈ lanes 4 8 x.toNat, c ≤ 4) :
    ((((x + (x >>> 4)) &&& 0x0F0F0F0F) * 0x01010101) >>> 24).toNat = (lanes 4 8 x.toNat).sum := by
  have hlt := x.isLt
  have hlanes : ∃ c0 c1 c2 c3 c4 c5 c6 c7, lanes 4 8 x.toNat = [c0, c1, c2, c3, c4, c5, c6, c7] ∧
      x.toNat = halfBytes [c0, c1, c2, c3, c4, c5, c6, c7] :=
    ⟨_, _, _, _, _, _, _, _, rfl, by simp only [halfBytes]; omega⟩
  obtain ⟨c0, c1, c2, c3, c4, c5, c6, c7, hl, hx⟩ := hlanes
  rw [hl] at h ⊢
  rw [BitVec.toNat_ushiftRight, Nat.shiftRight_eq_div_pow, BitVec.toNat_mul, BitVec.toNat_and, BitVec.toNat_add,
    BitVec.toNat_ushiftRight, Nat.shiftRight_eq_div_pow]
  change ((x.toNat + x.toNat / 16) % 2 ^ 32 &&& 0x0F0F0F0F) * 0x01010101 % 2 ^ 32 / 2 ^ 24 = _
  rw [neighbour_sums hx h]
  simp only [List.forall_mem_cons] at h
  rw [byte_sum (by omega)]
  simp [Nat.add_assoc]

/-- Settles O48: each of the first three steps pairs up the lanes of the number, and the last adds the bytes. -/
theorem parallelSumCountsTheBits : Obligations.ParallelSumCountsTheBits := by
  unfold Obligations.ParallelSumCountsTheBits
  intro x
  have hlanes : lanes 4 8 (pairSums 2 8 (pairSums 1 16 x.toNat)) = pairUp (pairUp (lanes 1 32 x.toNat)) := by
    rw [lanes_pairSums (k := 2) (by decide), lanes_pairSums (k := 1) (by decide)]
  have hbound : ∀ c ∈ pairUp (pairUp (lanes 1 32 x.toNat)), c ≤ 4 := pairUp_le (pairUp_le (lanes_one_le 32 x.toNat))
  rw [popcountParallel, toNat_sum_of_halfBytes] <;>
    rw [toNat_pairSums_two, toNat_subtract_odd, hlanes]
  · rw [pairUp_sum, pairUp_sum, lanes_one_sum]
    rfl
  · exact hbound

end Sys2Proof.Machine

end

/-! ### Scans (41_bitscan R124 to R134) -/

section

namespace Sys2Proof.Machine

/-! #### Least and greatest positions -/

/-- `o` is the least position with property `P`; `none` when there is none. -/
def LeastIn (P : Nat → Prop) : Option Nat → Prop
  | none => ∀ j, ¬ P j
  | some r => P r ∧ ∀ k, P k → r ≤ k

/-- `o` is the greatest position with property `P`; `none` when there is none. -/
def GreatestIn (P : Nat → Prop) : Option Nat → Prop
  | none => ∀ j, ¬ P j
  | some r => P r ∧ ∀ k, P k → k ≤ r

theorem LeastIn.congr {P Q : Nat → Prop} {o : Option Nat} (h : LeastIn P o) (hPQ : ∀ j, P j ↔ Q j) : LeastIn Q o := by
  rwa [← funext fun j => propext (hPQ j)]

theorem GreatestIn.congr {P Q : Nat → Prop} {o : Option Nat} (h : GreatestIn P o) (hPQ : ∀ j, P j ↔ Q j) :
    GreatestIn Q o := by
  rwa [← funext fun j => propext (hPQ j)]

theorem LeastIn.leastOrNone {P : Nat → Prop} {o : Option Nat} (h : LeastIn P o) : LeastOrNone P (scanResult o) := by
  cases o with
  | none => exact .inl ⟨rfl, h⟩
  | some r => exact .inr ⟨r, rfl, h⟩

theorem GreatestIn.greatestOrNone {P : Nat → Prop} {o : Option Nat} (h : GreatestIn P o) :
    GreatestOrNone P (scanResult o) := by
  cases o with
  | none => exact .inl ⟨rfl, h⟩
  | some r => exact .inr ⟨r, rfl, h⟩

/-- Clamping to `maxBit` keeps the least position there is. -/
theorem LeastIn.clamp {P : Nat → Prop} {o : Option Nat} (h : LeastIn P o) (v : PackedVector) :
    LeastIn (fun j => P j ∧ j ≤ v.mb) (v.clamp o) := by
  rcases v.clamp_cases o with ⟨hc, hle⟩ | ⟨hc, r, rfl, hgt⟩
  · rw [hc]
    cases o with
    | none => exact fun j hj => h j hj.1
    | some r => exact ⟨⟨h.1, hle r rfl⟩, fun k hk => h.2 k hk.1⟩
  · rw [hc]
    exact fun j hj => absurd (h.2 j hj.1) (by omega)

/-! #### A scan over words that show their usable bits only -/

/-- Position `j` is a set bit of the words as `look` shows them. -/
def Shown (look : Nat → Word) (j : Nat) : Prop := (look (j / 31)).getLsbD (j % 31) = true

theorem shown_iff (look : Nat → Word) {k b : Nat} (hb : b < 31) :
    Shown look (31 * k + b) ↔ (look k).getLsbD b = true := by
  rw [Shown, show (31 * k + b) / 31 = k by omega, show (31 * k + b) % 31 = b by omega]

/-- A word that shows no bit 31 and is not 0 has its bits below 31. -/
theorem shown_of_ne_zero {look : Nat → Word} {k : Nat} {b : Nat} (h31 : (look k).getLsbD 31 = false) (hb : b < 32)
    (h : (look k).getLsbD b = true) : b < 31 ∧ Shown look (b + 31 * k) := by
  have hlt : b < 31 := by
    by_contra hge
    obtain rfl : b = 31 := by omega
    exact Bool.false_ne_true (h31.symm.trans h)
  exact ⟨hlt, by rwa [Nat.add_comm, shown_iff look hlt]⟩

theorem not_shown_of_zero {look : Nat → Word} {j : Nat} (h : look (j / 31) = 0) : ¬ Shown look j := by
  simp [Shown, h]

/-- An upward scan finds the least shown position of its words. -/
theorem scanWords_least {order : List Nat} (hsorted : order.Pairwise (· < ·)) {look : Nat → Word}
    (h31 : ∀ k ∈ order, (look k).getLsbD 31 = false) :
    LeastIn (fun j => j / 31 ∈ order ∧ Shown look j) (scanWords order look lsb) := by
  rcases scanWords_cases order look lsb with ⟨hscan, hzero⟩ | ⟨before, i, after, rfl, hbefore, hi, hscan⟩
  · rw [hscan]
    exact fun j hj => not_shown_of_zero (hzero _ hj.1) hj.2
  · rw [hscan]
    obtain ⟨h32, hset, hleast⟩ := lsb_spec (look i) hi
    obtain ⟨hlt, hshown⟩ := shown_of_ne_zero (h31 i (by simp)) h32 hset
    refine ⟨⟨by simp [show (lsb (look i) + 31 * i) / 31 = i by omega], hshown⟩, fun k ⟨hk, hks⟩ => ?_⟩
    rcases List.mem_append.1 hk with hk | hk
    · exact absurd hks (not_shown_of_zero (hbefore _ hk))
    · rcases List.mem_cons.1 hk with hk | hk
      · have hge : lsb (look i) ≤ k % 31 := by
          by_contra hlow
          have hz := hleast (k % 31) (by omega)
          rw [Shown, hk] at hks
          exact Bool.false_ne_true (hz.symm.trans hks)
        omega
      · have := (List.pairwise_cons.1 (List.pairwise_append.1 hsorted).2.1).1 _ hk
        omega

/-- A downward scan finds the greatest shown position of its words. -/
theorem scanWords_greatest {order : List Nat} (hsorted : order.Pairwise (· > ·)) {look : Nat → Word}
    (h31 : ∀ k ∈ order, (look k).getLsbD 31 = false) :
    GreatestIn (fun j => j / 31 ∈ order ∧ Shown look j) (scanWords order look msb) := by
  rcases scanWords_cases order look msb with ⟨hscan, hzero⟩ | ⟨before, i, after, rfl, hbefore, hi, hscan⟩
  · rw [hscan]
    exact fun j hj => not_shown_of_zero (hzero _ hj.1) hj.2
  · rw [hscan]
    obtain ⟨h32, hset, hgreatest⟩ := msb_spec (look i) hi
    obtain ⟨hlt, hshown⟩ := shown_of_ne_zero (h31 i (by simp)) h32 hset
    refine ⟨⟨by simp [show (msb (look i) + 31 * i) / 31 = i by omega], hshown⟩, fun k ⟨hk, hks⟩ => ?_⟩
    rcases List.mem_append.1 hk with hk | hk
    · exact absurd hks (not_shown_of_zero (hbefore _ hk))
    · rcases List.mem_cons.1 hk with hk | hk
      · have hle : k % 31 ≤ msb (look i) := by
          by_contra hhigh
          have hz := hgreatest (k % 31) (by omega)
          rw [Shown, hk] at hks
          exact Bool.false_ne_true (hz.symm.trans hks)
        omega
      · have := (List.pairwise_cons.1 (List.pairwise_append.1 hsorted).2.1).1 _ hk
        omega

/-! #### The orders of the scans (41_bitscan R125) -/

theorem upWords_sorted (v : PackedVector) (f : Int) : (upWords v f).Pairwise (· < ·) := List.pairwise_lt_range'

theorem downWords_sorted (v : PackedVector) (f : Int) : (downWords v f).Pairwise (· > ·) :=
  List.pairwise_reverse.2 List.pairwise_lt_range

/-- An upward scan from a word looks at that word first. -/
theorem upWords_cons (v : PackedVector) {w : Nat} (h : w < v.nwords) :
    upWords v w = w :: upWords v ((w : Int) + 1) := by
  have hlen : v.nwords - w = v.nwords - (w + 1) + 1 := by omega
  rw [upWords, upWords, Int.toNat_natCast, show ((w : Int) + 1).toNat = w + 1 by omega, hlen, List.range'_succ]

/-- A downward scan from a word looks at that word first. -/
theorem downWords_cons (v : PackedVector) {w : Nat} (h : w < v.nwords) :
    downWords v w = w :: downWords v ((w : Int) - 1) := by
  have h1 : (min (w : Int) ((v.nwords : Int) - 1) + 1).toNat = w + 1 := by omega
  have h2 : (min ((w : Int) - 1) ((v.nwords : Int) - 1) + 1).toNat = w := by omega
  rw [downWords, downWords, h1, h2, List.range_succ, List.reverse_append]
  rfl

/-- A scan looks at the first word, and goes on where that shows no bit. -/
theorem scanWords_cons (i : Nat) (order : List Nat) (look : Nat → Word) (pos : Word → Nat) :
    scanWords (i :: order) look pos =
      if look i ≠ 0 then some (pos (look i) + 31 * i) else scanWords order look pos := by
  by_cases h : look i = 0
  · rw [if_neg (not_not.2 h), scanWords, List.find?_cons_of_neg (by simpa using h), scanWords]
  · rw [if_pos h, scanWords, List.find?_cons_of_pos (by simpa using h)]
    rfl

theorem scanWords_congr {order : List Nat} {look look' : Nat → Word} (h : ∀ i ∈ order, look i = look' i)
    (pos : Word → Nat) : scanWords order look pos = scanWords order look' pos := by
  induction order with
  | nil => rfl
  | cons i order ih =>
    rw [scanWords_cons, scanWords_cons, h i (by simp), ih fun j hj => h j (by simp [hj])]

/-- The words as `look` shows them, but word `w` as `x`: what a scan sees that begins inside word `w`. -/
def lookWith (look : Nat → Word) (w : Nat) (x : Word) (i : Nat) : Word := if i = w then x else look i

@[simp] theorem lookWith_self (look : Nat → Word) (w : Nat) (x : Word) : lookWith look w x w = x := if_pos rfl

theorem lookWith_of_ne (look : Nat → Word) {w i : Nat} (x : Word) (h : i ≠ w) : lookWith look w x i = look i := if_neg h

/-- A scan that begins with part of word `w` and goes up is one scan of the words from `w`. -/
theorem scanWords_up_from (v : PackedVector) {w : Nat} (h : w < v.nwords) (look : Nat → Word) (x : Word) :
    scanWords (upWords v w) (lookWith look w x) lsb =
      if x ≠ 0 then some (lsb x + 31 * w) else scanWords (upWords v ((w : Int) + 1)) look lsb := by
  rw [upWords_cons v h, scanWords_cons, lookWith_self]
  congr 1
  refine scanWords_congr (fun i hi => lookWith_of_ne look x ?_) lsb
  have := (mem_upWords v _ i).1 hi
  omega

/-- A scan that begins with part of word `w` and goes down is one scan of the words from `w`. -/
theorem scanWords_down_from (v : PackedVector) {w : Nat} (h : w < v.nwords) (look : Nat → Word) (x : Word) :
    scanWords (downWords v w) (lookWith look w x) msb =
      if x ≠ 0 then some (msb x + 31 * w) else scanWords (downWords v ((w : Int) - 1)) look msb := by
  rw [downWords_cons v h, scanWords_cons, lookWith_self]
  congr 1
  refine scanWords_congr (fun i hi => lookWith_of_ne look x ?_) msb
  have := (mem_downWords v _ i).1 hi
  omega

/-! #### What the words show -/

theorem PackedVector.shown_ones (v : PackedVector) (j : Nat) : Shown v.ones j ↔ v.bit j = true := by
  rw [Shown, v.ones_getLsbD, decide_eq_true (Nat.mod_lt j (by decide)), Bool.and_true, PackedVector.bit]

theorem PackedVector.shown_zeros (v : PackedVector) (j : Nat) : Shown v.zeros j ↔ v.bit j = false := by
  rw [Shown, v.zeros_getLsbD, decide_eq_true (Nat.mod_lt j (by decide)), Bool.and_true, Bool.not_eq_true',
    PackedVector.bit]

theorem PackedVector.ones_bit31 (v : PackedVector) (k : Nat) : (v.ones k).getLsbD 31 = false := by
  simp [v.ones_getLsbD, -BitVec.getLsbD_eq_getElem]

theorem PackedVector.zeros_bit31 (v : PackedVector) (k : Nat) : (v.zeros k).getLsbD 31 = false := by
  simp [v.zeros_getLsbD, -BitVec.getLsbD_eq_getElem]

/-- What `FLZ` sees of a word: its unset bits, but no padding. -/
theorem PackedVector.logicalZeros_getLsbD (v : PackedVector) (k b : Nat) : (v.logicalZeros k).getLsbD b =
    (decide (b < 31) && !(v.word k).getLsbD b && !decide (k + 1 = v.nwords ∧ v.lastLocal < b)) := by
  rw [PackedVector.logicalZeros, BitVec.getLsbD_and, full_getLsbD, BitVec.getLsbD_not]
  by_cases hb : b < 31
  · by_cases hk : k + 1 = v.nwords
    · simp [hb, hk, show b < 32 by omega, BitVec.getLsbD_or, v.padmask_getLsbD, -BitVec.getLsbD_eq_getElem]
    · simp [hb, hk, show b < 32 by omega, -BitVec.getLsbD_eq_getElem]
  · simp [hb]

theorem PackedVector.logicalZeros_bit31 (v : PackedVector) (k : Nat) : (v.logicalZeros k).getLsbD 31 = false := by
  simp [v.logicalZeros_getLsbD, -BitVec.getLsbD_eq_getElem]

theorem PackedVector.shown_logicalZeros {v : PackedVector} (hn : v.nwords = v.mb / 31 + 1) {j : Nat}
    (hj : j / 31 < v.nwords) : Shown v.logicalZeros j ↔ j ≤ v.mb ∧ v.bit j = false := by
  have hpad : j / 31 + 1 = v.nwords ∧ v.lastLocal < j % 31 ↔ ¬ j ≤ v.mb := by
    rw [PackedVector.lastLocal]
    omega
  rw [Shown, v.logicalZeros_getLsbD, decide_eq_true (Nat.mod_lt j (by decide)), Bool.true_and, Bool.and_eq_true,
    Bool.not_eq_true', Bool.not_eq_true', decide_eq_false_iff_not, hpad, not_not, PackedVector.bit, and_comm]

/-! #### The eight scans on vectors (41_bitscan R126 to R133) -/

/-- An upward scan of words that show the bits with property `P`, clamped: the least such index in range from the
first bit of word `f`. -/
theorem PackedVector.up_scan {v : PackedVector} (hn : v.nwords = v.mb / 31 + 1) (f : Int) {look : Nat → Word}
    {P : Nat → Prop} (h31 : ∀ k, (look k).getLsbD 31 = false) (hP : ∀ j, Shown look j ↔ P j) :
    LeastIn (fun j => 31 * max f 0 ≤ j ∧ j ≤ v.mb ∧ P j) (v.clamp (scanWords (upWords v f) look lsb)) := by
  refine ((scanWords_least (upWords_sorted v f) fun k _ => h31 k).clamp v).congr fun j => ?_
  rw [mem_upWords, hP]
  constructor
  · rintro ⟨⟨⟨hf, hk⟩, hp⟩, hj⟩
    exact ⟨by omega, hj, hp⟩
  · rintro ⟨hf, hj, hp⟩
    exact ⟨⟨⟨by omega, by omega⟩, hp⟩, hj⟩

theorem PackedVector.ffs_least {v : PackedVector} (hn : v.nwords = v.mb / 31 + 1) (f : Int) :
    LeastIn (fun j => 31 * max f 0 ≤ j ∧ j ≤ v.mb ∧ v.bit j = true) (v.ffs f) :=
  v.up_scan hn f v.ones_bit31 v.shown_ones

theorem PackedVector.ffz_least {v : PackedVector} (hn : v.nwords = v.mb / 31 + 1) (f : Int) :
    LeastIn (fun j => 31 * max f 0 ≤ j ∧ j ≤ v.mb ∧ v.bit j = false) (v.ffz f) :=
  v.up_scan hn f v.zeros_bit31 v.shown_zeros

theorem PackedVector.fls_greatest (v : PackedVector) (f : Int) :
    GreatestIn (fun j => (j : Int) ≤ 31 * min f ((v.nwords : Int) - 1) + 30 ∧ v.bit j = true) (v.fls f) := by
  refine (scanWords_greatest (downWords_sorted v f) fun k _ => v.ones_bit31 k).congr fun j => ?_
  rw [mem_downWords, v.shown_ones]
  exact and_congr_left fun _ => by omega

theorem PackedVector.flz_greatest {v : PackedVector} (hn : v.nwords = v.mb / 31 + 1) (f : Int) :
    GreatestIn (fun j => (j : Int) ≤ 31 * min f ((v.nwords : Int) - 1) + 30 ∧ j ≤ v.mb ∧ v.bit j = false)
      (v.flz f) := by
  refine (scanWords_greatest (downWords_sorted v f) fun k _ => v.logicalZeros_bit31 k).congr fun j => ?_
  rw [mem_downWords]
  constructor
  · rintro ⟨⟨hf, hk⟩, hs⟩
    exact ⟨by omega, (v.shown_logicalZeros hn hk).1 hs⟩
  · rintro ⟨hf, hs⟩
    have hk : j / 31 < v.nwords := by omega
    exact ⟨⟨by omega, hk⟩, (v.shown_logicalZeros hn hk).2 hs⟩

/-- The shown positions of `lookWith`: in word `w` the bits of `x`, elsewhere those `look` shows. -/
theorem shown_lookWith (look : Nat → Word) (w : Nat) (x : Word) (j : Nat) :
    Shown (lookWith look w x) j ↔ if j / 31 = w then x.getLsbD (j % 31) = true else Shown look j := by
  rw [Shown, lookWith]
  split <;> rfl

theorem lookWith_bit31 {look : Nat → Word} {w : Nat} {x : Word} (h31 : ∀ k, (look k).getLsbD 31 = false)
    (hx : x.getLsbD 31 = false) (k : Nat) : (lookWith look w x k).getLsbD 31 = false := by
  rw [lookWith]
  split
  · exact hx
  · exact h31 k

/-- An upward scan from index `idx`: `x` shows the bits of its word from `idx` on. -/
theorem PackedVector.up_scan_from {v : PackedVector} (hn : v.nwords = v.mb / 31 + 1) {idx : Nat} (hidx : idx ≤ v.mb)
    {look : Nat → Word} {x : Word} {P : Nat → Prop} (h31 : ∀ k, (look k).getLsbD 31 = false)
    (hP : ∀ j, Shown look j ↔ P j)
    (hx : ∀ b < 32, x.getLsbD b = ((look (idx / 31)).getLsbD b && decide (idx % 31 ≤ b))) :
    LeastIn (fun j => idx ≤ j ∧ j ≤ v.mb ∧ P j) (if x ≠ 0 then v.clamp (some (lsb x + 31 * (idx / 31)))
      else v.clamp (scanWords (upWords v (((idx / 31 : Nat) : Int) + 1)) look lsb)) := by
  have hw : idx / 31 < v.nwords := by omega
  have hx31 : x.getLsbD 31 = false := by rw [hx 31 (by decide), h31, Bool.false_and]
  rw [← apply_ite v.clamp, ← scanWords_up_from v hw look x]
  refine ((scanWords_least (upWords_sorted v _) fun k _ => lookWith_bit31 h31 hx31 k).clamp v).congr fun j => ?_
  rw [mem_upWords, shown_lookWith, ← hP]
  by_cases hj : j / 31 = idx / 31
  · rw [if_pos hj, hx _ (by omega), Bool.and_eq_true, decide_eq_true_eq, ← hj, Shown]
    constructor
    · rintro ⟨⟨hf, hs, hb⟩, hm⟩
      exact ⟨by omega, hm, hs⟩
    · rintro ⟨hf, hm, hs⟩
      exact ⟨⟨by omega, hs, by omega⟩, hm⟩
  · rw [if_neg hj]
    constructor
    · rintro ⟨⟨hf, hs⟩, hm⟩
      exact ⟨by omega, hm, hs⟩
    · rintro ⟨hf, hm, hs⟩
      exact ⟨⟨by omega, hs⟩, hm⟩

/-- A downward scan from index `idx`: `x` shows the bits of its word down from `idx`. -/
theorem PackedVector.down_scan_from {v : PackedVector} (hn : v.nwords = v.mb / 31 + 1) {idx : Nat} (hidx : idx ≤ v.mb)
    {look : Nat → Word} {x : Word} {P : Nat → Prop} (h31 : ∀ k, (look k).getLsbD 31 = false)
    (hP : ∀ j ≤ v.mb, Shown look j ↔ P j)
    (hx : ∀ b < 32, x.getLsbD b = ((look (idx / 31)).getLsbD b && decide (b ≤ idx % 31))) :
    GreatestIn (fun j => j ≤ idx ∧ P j) (if x ≠ 0 then some (msb x + 31 * (idx / 31))
      else scanWords (downWords v (((idx / 31 : Nat) : Int) - 1)) look msb) := by
  have hw : idx / 31 < v.nwords := by omega
  have hx31 : x.getLsbD 31 = false := by rw [hx 31 (by decide), h31, Bool.false_and]
  rw [← scanWords_down_from v hw look x]
  refine (scanWords_greatest (downWords_sorted v _) fun k _ => lookWith_bit31 h31 hx31 k).congr fun j => ?_
  rw [mem_downWords, shown_lookWith]
  by_cases hj : j / 31 = idx / 31
  · rw [if_pos hj, hx _ (by omega), Bool.and_eq_true, decide_eq_true_eq, ← hj]
    constructor
    · rintro ⟨hf, hs, hb⟩
      exact ⟨by omega, (hP j (by omega)).1 hs⟩
    · rintro ⟨hf, hs⟩
      exact ⟨by omega, (hP j (by omega)).2 hs, by omega⟩
  · rw [if_neg hj]
    constructor
    · rintro ⟨hf, hs⟩
      exact ⟨by omega, (hP j (by omega)).1 hs⟩
    · rintro ⟨hf, hs⟩
      exact ⟨by omega, (hP j (by omega)).2 hs⟩

theorem PackedVector.nextSet_least {v : PackedVector} (hn : v.nwords = v.mb / 31 + 1) {idx : Nat} (hidx : idx ≤ v.mb) :
    LeastIn (fun j => idx ≤ j ∧ j ≤ v.mb ∧ v.bit j = true) (v.nextSet (idx / 31) (idx % 31)) := by
  refine v.up_scan_from hn hidx v.ones_bit31 v.shown_ones fun b hb => ?_
  rw [BitVec.getLsbD_and, mask_getLsbD, v.ones_getLsbD, Bool.eq_iff_iff]
  simp only [Bool.and_eq_true, decide_eq_true_eq, and_assoc]
  exact and_congr_right fun _ => by omega

theorem PackedVector.nextUnset_least {v : PackedVector} (hn : v.nwords = v.mb / 31 + 1) {idx : Nat}
    (hidx : idx ≤ v.mb) :
    LeastIn (fun j => idx ≤ j ∧ j ≤ v.mb ∧ v.bit j = false) (v.nextUnset (idx / 31) (idx % 31)) := by
  refine v.up_scan_from hn hidx v.zeros_bit31 v.shown_zeros fun b hb => ?_
  rw [BitVec.getLsbD_and, BitVec.getLsbD_not, BitVec.getLsbD_or, BitVec.getLsbD_ofNat, Nat.testBit_two_pow_sub_one,
    full_getLsbD, v.zeros_getLsbD, Bool.eq_iff_iff]
  simp only [hb, decide_true, Bool.true_and, Bool.and_eq_true, Bool.not_eq_true', Bool.or_eq_false_iff,
    decide_eq_true_eq, decide_eq_false_iff_not, and_assoc]
  exact and_congr_right fun _ => by omega

theorem PackedVector.prevSet_greatest {v : PackedVector} (hn : v.nwords = v.mb / 31 + 1) {idx : Nat}
    (hidx : idx ≤ v.mb) : GreatestIn (fun j => j ≤ idx ∧ v.bit j = true) (v.prevSet (idx / 31) (idx % 31)) := by
  refine v.down_scan_from hn hidx v.ones_bit31 (fun j _ => v.shown_ones j) fun b hb => ?_
  rw [BitVec.getLsbD_and, mask_getLsbD, v.ones_getLsbD, Bool.eq_iff_iff]
  simp only [Bool.and_eq_true, decide_eq_true_eq, and_assoc]
  exact and_congr_right fun _ => by omega

theorem PackedVector.prevUnset_greatest {v : PackedVector} (hn : v.nwords = v.mb / 31 + 1) {idx : Nat}
    (hidx : idx ≤ v.mb) : GreatestIn (fun j => j ≤ idx ∧ v.bit j = false) (v.prevUnset (idx / 31) (idx % 31)) := by
  have hP : ∀ j ≤ v.mb, Shown v.logicalZeros j ↔ v.bit j = false := fun j hj =>
    (v.shown_logicalZeros hn (by omega)).trans (and_iff_right hj)
  refine v.down_scan_from hn hidx v.logicalZeros_bit31 hP fun b hb => ?_
  rw [BitVec.getLsbD_and, BitVec.getLsbD_not, BitVec.getLsbD_or, BitVec.getLsbD_and, BitVec.getLsbD_not, mask_getLsbD,
    full_getLsbD, v.logicalZeros_getLsbD, PackedVector.lastLocal, Bool.eq_iff_iff]
  simp only [hb, decide_true, Bool.true_and, Bool.and_eq_true, Bool.not_eq_true', Bool.or_eq_false_iff,
    Bool.and_eq_false_iff, Bool.not_eq_false', decide_eq_true_eq, decide_eq_false_iff_not]
  cases (v.word (idx / 31)).getLsbD b
  · simp only [true_and, and_true]
    omega
  · simp

/-! #### The scan commands -/

/-- Settles O35: `ffs_least` and `ffz_least`. -/
theorem upwardScansFindTheLeast : Obligations.UpwardScansFindTheLeast := by
  unfold Obligations.UpwardScansFindTheLeast
  intro a s v h hv
  have hn := hv.2.1
  exact ⟨⟨_, commandA_runs a s _ v h.1 h.2, (PackedVector.ffs_least hn s.arg0.toInt).leastOrNone⟩,
    ⟨_, commandA_runs a s _ v h.1 h.2, (PackedVector.ffz_least hn s.arg0.toInt).leastOrNone⟩⟩

/-- Settles O36: `fls_greatest` and `flz_greatest`. -/
theorem downwardScansFindTheGreatest : Obligations.DownwardScansFindTheGreatest := by
  unfold Obligations.DownwardScansFindTheGreatest
  intro a s v h hv
  have hn := hv.2.1
  exact ⟨⟨_, commandA_runs a s _ v h.1 h.2, (v.fls_greatest s.arg0.toInt).greatestOrNone⟩,
    ⟨_, commandA_runs a s _ v h.1 h.2, (PackedVector.flz_greatest hn s.arg0.toInt).greatestOrNone⟩⟩

/-- A scan from an index in range answers with the index's word and bit position. -/
theorem commandA_indexScan {a : SlotNo} {s : State} {v : PackedVector} (scan : PackedVector → Nat → Nat → Option Nat)
    (h : s.Holds a v) {idx : Nat} (hidx : s.arg0.toInt = idx) (hle : idx ≤ v.mb) :
    (commandA a s fun v => atIndex v s.operand0 fun w b => answer s (scanResult (scan v w b))) =
      .next (s.resultIn (scanResult (scan v (idx / 31) (idx % 31)))) := by
  have hop : s.operand0 = idx := hidx
  rw [commandA_runs a s _ v h.1 h.2, hop, atIndex_ok v _ _ (by omega) (by omega), Int.toNat_natCast]
  rfl

/-- Settles O37: `nextSet_least` and `nextUnset_least`. -/
theorem nextScansFindTheLeast : Obligations.NextScansFindTheLeast := by
  unfold Obligations.NextScansFindTheLeast
  intro a s v h hv h0 h1
  have hn := hv.2.1
  obtain ⟨idx, hidx⟩ := Int.eq_ofNat_of_zero_le h0
  rw [hidx] at h1 ⊢
  have hle : idx ≤ v.mb := by omega
  simp only [Int.ofNat_le]
  exact ⟨⟨_, commandA_indexScan PackedVector.nextSet h hidx hle, (PackedVector.nextSet_least hn hle).leastOrNone⟩,
    ⟨_, commandA_indexScan PackedVector.nextUnset h hidx hle, (PackedVector.nextUnset_least hn hle).leastOrNone⟩⟩

/-- Settles O38: `prevSet_greatest` and `prevUnset_greatest`. -/
theorem previousScansFindTheGreatest : Obligations.PreviousScansFindTheGreatest := by
  unfold Obligations.PreviousScansFindTheGreatest
  intro a s v h hv h0 h1
  have hn := hv.2.1
  obtain ⟨idx, hidx⟩ := Int.eq_ofNat_of_zero_le h0
  rw [hidx] at h1 ⊢
  have hle : idx ≤ v.mb := by omega
  simp only [Int.ofNat_le]
  exact ⟨⟨_, commandA_indexScan PackedVector.prevSet h hidx hle, (PackedVector.prevSet_greatest hn hle).greatestOrNone⟩,
    ⟨_, commandA_indexScan PackedVector.prevUnset h hidx hle,
      (PackedVector.prevUnset_greatest hn hle).greatestOrNone⟩⟩

end Sys2Proof.Machine

end

/-! ### Counting, and the host loops over the scans (43_algebra R184, 30_encoding R88) -/

section

namespace Sys2Proof.Machine

/-! #### `CARD` (43_algebra R184) -/

/-- A word without bit 31 has as many set bits as set positions. -/
theorem popcount_of_bit31 {x : Word} (h : x.getLsbD 31 = false) :
    popcount x = (List.range 31).countP fun b => x.getLsbD b := by
  rw [popcount, List.range_succ, List.countP_append]
  simp [h, -BitVec.getLsbD_eq_getElem]

/-- The set positions of the first `k` words, word by word. -/
theorem PackedVector.countP_bit (v : PackedVector) (k : Nat) (hk : k ≤ v.nwords)
    (h31 : ∀ i < v.nwords, (v.word i).getLsbD 31 = false) :
    (List.range (31 * k)).countP v.bit = ((v.words.take k).map popcount).sum := by
  induction k with
  | zero => rfl
  | succ k ih =>
    have hlt : k < v.words.length := hk
    have hword : (List.range 31).countP (v.bit ∘ (31 * k + ·)) = popcount v.words[k] := by
      rw [← v.word_of_lt k hlt, popcount_of_bit31 (h31 k hk)]
      refine List.countP_congr fun b hb => ?_
      have hb31 : b < 31 := List.mem_range.1 hb
      rw [Function.comp_apply, PackedVector.bit, show (31 * k + b) / 31 = k by omega,
        show (31 * k + b) % 31 = b by omega]
    rw [Nat.mul_succ, List.range_add, List.countP_append, List.countP_map, ih (by omega), hword,
      List.take_succ_eq_append_getElem hlt, List.map_append, List.sum_append]
    simp

/-- The population count of an allowed vector is the number of its set positions, padding included. -/
theorem PackedVector.cardinality_eq {p : Config.Params} {v : PackedVector} (hv : v.Wf p) :
    v.cardinality = (List.range (31 * v.nwords)).countP v.bit := by
  rw [v.countP_bit v.nwords le_rfl ((v.wf_iff p).1 hv).2.2, PackedVector.nwords, List.take_length,
    PackedVector.cardinality]

theorem exec_card {a : SlotNo} {s : State} {v : PackedVector} (h : s.Holds a v) :
    exec (.card a) s = .next (s.resultIn v.cardinality) := commandA_runs a s _ v h.1 h.2

/-- Settles O49: `cardinality_eq`. -/
theorem cardCountsEveryPosition : Obligations.CardCountsEveryPosition := by
  unfold Obligations.CardCountsEveryPosition
  intro a s v h hv
  rw [exec_card h, PackedVector.cardinality_eq hv]

/-! #### The indices a scan still has to visit -/

/-- The set indices from `lo` to `maxBit`, ascending. -/
def PackedVector.indicesFrom (v : PackedVector) (lo : Nat) : List Nat :=
  (List.range' lo (v.mb + 1 - lo)).filter v.bit

theorem PackedVector.indicesFrom_zero (v : PackedVector) : v.indicesFrom 0 = (List.range (v.mb + 1)).filter v.bit := by
  rw [PackedVector.indicesFrom, List.range_eq_range', Nat.sub_zero]

/-- The set indices from `lo` on, as the scan from `lo` finds them: none, or the least one and those after it. -/
theorem PackedVector.indicesFrom_eq {v : PackedVector} {lo : Nat} {o : Option Nat}
    (h : LeastIn (fun j => lo ≤ j ∧ j ≤ v.mb ∧ v.bit j = true) o) :
    v.indicesFrom lo = o.elim [] fun r => r :: v.indicesFrom (r + 1) := by
  cases o with
  | none =>
    refine List.filter_eq_nil_iff.2 fun j hj hb => h j ?_
    have := List.mem_range'_1.1 hj
    exact ⟨by omega, by omega, hb⟩
  | some r =>
    obtain ⟨⟨hlo, hr, hb⟩, hleast⟩ := h
    have hsplit : List.range' lo (v.mb + 1 - lo) =
        List.range' lo (r - lo) ++ r :: List.range' (r + 1) (v.mb + 1 - (r + 1)) := by
      have h1 : v.mb + 1 - lo = (r - lo) + (v.mb + 1 - (r + 1) + 1) := by omega
      have h2 : lo + (r - lo) = r := by omega
      rw [h1, ← List.range'_append_1, h2, List.range'_succ]
    have hnone : (List.range' lo (r - lo)).filter v.bit = [] := by
      refine List.filter_eq_nil_iff.2 fun j hj hbj => ?_
      have hj := List.mem_range'_1.1 hj
      have := hleast j ⟨hj.1, by omega, hbj⟩
      omega
    rw [PackedVector.indicesFrom, hsplit, List.filter_append, hnone, List.nil_append, List.filter_cons_of_pos hb]
    rfl

theorem PackedVector.indicesFrom_of_lt {v : PackedVector} {lo : Nat} (h : v.mb < lo) : v.indicesFrom lo = [] := by
  rw [PackedVector.indicesFrom, show v.mb + 1 - lo = 0 by omega]
  rfl

/-! #### One scan of the loop, with its transactions (30_encoding R80, R88) -/

/-- `s` after an assembly line with one argument has written its registers. -/
def State.lineIn (s : State) (i : Instr) (x : Int) : State := { s with arg0 := u32 x, cmd := encode i }

theorem performAll_assemble_one {i : Instr} {x r : Int} {s : State}
    (h : exec i (s.lineIn i x) = .next ((s.lineIn i x).resultIn r)) :
    performAll (assemble i (.one x) ++ rdRes) s = .next (((s.lineIn i x).resultIn r).observe (.word (u32 r))) := by
  have hcmd : writeCmd (encode i) { s with arg0 := u32 x } = exec i (s.lineIn i x) := by
    rw [writeCmd, (decode_eq_ok_iff _ i).2 rfl]
    rfl
  simp only [assemble, argWrites, rdRes, List.cons_append, List.nil_append, performAll, perform, performTxn, writeReg,
    hcmd, h]
  rfl

/-- Indices of an allowed vector and `-1` are read back from a register. -/
theorem s32_u32 {r : Int} (h : -1 ≤ r) (hlt : r < 2 ^ 31) : s32 (u32 r) = r := by
  rw [s32, u32, BitVec.toInt_ofInt]
  exact Int.bmod_eq_of_le (by omega) (by omega)

/-- `s` holds the vector in slot `a`, and `RES` is a scan's result. -/
structure AtVisit (s : State) (a : SlotNo) (v : PackedVector) (o : Option Nat) : Prop where
  holds : s.Holds a v
  res : s.res = u32 (scanResult o)

/-- A scan of the loop, with its transactions, ends with the scan's result in `RES`. -/
theorem performAll_scan {i : Instr} {x : Int} {s : State} {a : SlotNo} {v : PackedVector} {o : Option Nat}
    (hs : s.Holds a v) (h : exec i (s.lineIn i x) = .next ((s.lineIn i x).resultIn (scanResult o))) :
    ∃ t, performAll (assemble i (.one x) ++ rdRes) s = .next t ∧ AtVisit t a v o :=
  ⟨_, performAll_assemble_one h, hs, rfl⟩

theorem performAll_ffs0 {s : State} {a : SlotNo} {v : PackedVector} (hs : s.Holds a v) :
    ∃ t, performAll (.txn (.regRead (.maxBitOf a)) :: ffs0 a ++ rdRes) s = .next t ∧ AtVisit t a v (v.ffs 0) := by
  have hs' : (s.observe (.word (s.readReg (.maxBitOf a)))).Holds a v := hs
  refine performAll_scan (i := .ffs a) (x := 0) hs' ?_
  exact commandA_runs a _ _ v hs.1 hs.2

/-- The scan after index `r`, below `maxBit`. -/
theorem performAll_nextset {s : State} {a : SlotNo} {v : PackedVector} (hs : s.Holds a v) {r : Nat}
    (hr : r + 1 ≤ v.mb) (hmb : v.mb < 2 ^ 31) :
    ∃ t, performAll (assemble (.nextset a) (.one ((r : Int) + 1)) ++ rdRes) s = .next t ∧
      AtVisit t a v (v.nextSet ((r + 1) / 31) ((r + 1) % 31)) := by
  have hs' : (s.lineIn (.nextset a) ((r : Int) + 1)).Holds a v := hs
  have hidx : (s.lineIn (.nextset a) ((r : Int) + 1)).arg0.toInt = ((r + 1 : Nat) : Int) :=
    s32_u32 (by omega) (by omega)
  exact performAll_scan hs (commandA_indexScan PackedVector.nextSet hs' hidx hr)

/-! #### `FOREACH` and `GETINDICES` (30_encoding R88) -/

/-- THE LOOP INVARIANT: with the least set index from `lo` on in `RES`, and fuel for every index from there, the loop
visits the set indices from `lo` on. -/
theorem foreachLoop_visits {a : SlotNo} {v : PackedVector} (hn : v.nwords = v.mb / 31 + 1) (hmb : v.mb < 2 ^ 31)
    {fuel lo : Nat} {s : State} {seen : List Int} {o : Option Nat} (hs : AtVisit s a v o)
    (ho : LeastIn (fun j => lo ≤ j ∧ j ≤ v.mb ∧ v.bit j = true) o) (hfuel : v.mb + 2 ≤ fuel + lo) :
    (foreachLoop a v.mb (fun _ => false) fuel s seen).1 = seen ++ (v.indicesFrom lo).map Int.ofNat := by
  induction fuel generalizing lo s seen o with
  | zero =>
    rw [PackedVector.indicesFrom_of_lt (by omega)]
    simp [foreachLoop]
  | succ fuel ih =>
    rw [PackedVector.indicesFrom_eq ho, foreachLoop, hs.res]
    cases o with
    | none =>
      rw [s32_u32 (by decide) (by decide)]
      simp [scanResult]
    | some r =>
      obtain ⟨⟨hlo, hr, -⟩, -⟩ := ho
      rw [s32_u32 (by simp only [scanResult]; omega) (by simp only [scanResult]; omega)]
      simp only [scanResult, Bool.false_or, beq_iff_eq, Nat.cast_inj, Option.elim_some, List.map_cons]
      rw [if_neg (by omega)]
      split
      · next heq =>
        rw [PackedVector.indicesFrom_of_lt (show v.mb < r + 1 by omega)]
        rfl
      · next hne =>
        obtain ⟨t, hrun, ht⟩ := performAll_nextset hs.holds (r := r) (by omega) hmb
        rw [hrun]
        refine (ih ht (PackedVector.nextSet_least hn (by omega)) (by omega)).trans ?_
        simp

theorem readReg_maxBitOf {s : State} {a : SlotNo} {v : PackedVector} (h : s.Holds a v) :
    s.readReg (.maxBitOf a) = v.maxBit := by
  rw [State.readReg, State.maxBitWord, if_pos h.1, h.2]

/-- The host loop lists the set indices of an allowed vector. -/
theorem getIndices_eq {a : SlotNo} {s : State} {v : PackedVector} (hp : s.params.Legal) (h : s.Holds a v)
    (hv : v.Wf s.params) : getIndices a s = ((List.range (v.mb + 1)).filter v.bit).map Int.ofNat := by
  have hmb : v.mb < 2 ^ 31 := hv.1.trans (maxcap_lt hp)
  have hn := hv.2.1
  have hguard : s32 (s.readReg (.maxBitOf a)) = v.mb := by
    rw [readReg_maxBitOf h]
    exact BitVec.toInt_eq_toNat_of_lt (by change 2 * v.mb < 2 ^ 32; omega)
  obtain ⟨t, hrun, ht⟩ := performAll_ffs0 h
  have hleast : LeastIn (fun j => 0 ≤ j ∧ j ≤ v.mb ∧ v.bit j = true) (v.ffs 0) :=
    (PackedVector.ffs_least hn 0).congr fun j => by simp
  rw [getIndices, foreach, hguard, hrun, ← v.indicesFrom_zero]
  exact foreachLoop_visits hn hmb ht hleast (by omega)

/-- Settles O39: `getIndices_eq`. -/
theorem getIndicesListsTheSetIndices : Obligations.GetIndicesListsTheSetIndices := by
  unfold Obligations.GetIndicesListsTheSetIndices
  exact fun a s v hp h hv => getIndices_eq hp h hv

/-- A canonical vector has no set position above `maxBit`. -/
theorem PackedVector.bit_of_canonical {v : PackedVector} (hn : v.nwords = v.mb / 31 + 1) (hc : v.canonical = true)
    {j : Nat} (hj : v.mb < j) (hlt : j < 31 * v.nwords) : v.bit j = false := by
  have hpad := ((v.canonical_iff).1 hc).2
  rw [PackedVector.bit, show j / 31 = v.nwords - 1 by omega]
  exact hpad _ (by omega) (by omega)

/-- The set positions of a canonical vector are its set indices. -/
theorem PackedVector.cardinality_of_canonical {p : Config.Params} {v : PackedVector} (hv : v.Wf p)
    (hc : v.canonical = true) : v.cardinality = ((List.range (v.mb + 1)).filter v.bit).length := by
  have hn := hv.2.1
  have hsplit : 31 * v.nwords = v.mb + 1 + (31 * v.nwords - (v.mb + 1)) := by omega
  rw [PackedVector.cardinality_eq hv, hsplit, List.range_add, List.countP_append, ← List.countP_eq_length_filter,
    Nat.add_eq_left, List.countP_eq_zero]
  intro j hj
  obtain ⟨k, hk, rfl⟩ := List.mem_map.1 hj
  have := List.mem_range.1 hk
  rw [PackedVector.bit_of_canonical hn hc (by omega) (by omega)]
  decide

/-- Settles O50: both sides count the set indices. -/
theorem cardEqualsGetIndicesLength : Obligations.CardEqualsGetIndicesLength := by
  unfold Obligations.CardEqualsGetIndicesLength
  intro a s v hp h hv hc
  rw [exec_card h, getIndices_eq hp h hv, PackedVector.cardinality_of_canonical hv hc, List.length_map]

end Sys2Proof.Machine

end
